-- ==== Sys2Proof/Word.lean ====
section
/-! DEFINITION. The word types of the machine, by the widths the spec gives them (R10, R12, R20, R24, R30). -/

namespace Sys2Proof

/-- One byte of memory or of an encoded instruction. -/
abbrev Byte := BitVec 8

/-- A general register, an address, `pc` or a control register (R30, R31, R34). -/
abbrev Word := BitVec 64

/-- The storage of one vector register, `MAXVL` bits of it real (R8, R20). -/
abbrev VecWord := BitVec 512

/-- One FP16 element (R131). -/
abbrev Half := BitVec 16

/-- One FP32 lane (R132). -/
abbrev Single := BitVec 32

end Sys2Proof
end

