-- ==== Sys2Proof/Config.lean ====
section
/-! DEFINITION. What an implementation fixes and no rule of the spec gives. The parameters of R8 that a launch
state gives (R244) are fields of `State`, so that every statement holds for every value of them. -/

namespace Sys2Proof

/-- Whether an EVEX form whose memory operand at this address, of this many bytes, is not aligned to its own size
raises #AC when alignment checking is on. The spec does not say (R53, R207, R208, N14), so this is a free value:
no proof can see it. It is one function of the address and the byte count for all EVEX forms: that Type E11 (forms 3
to 5) and Type E2 (forms 6 to 8), whose tables the spec leaves open each (R207, R208, N4, N5), answer alike for equal
operands is the model's. DESIGN CHOICE, log entry 11. -/
opaque Config.evexReportsAc : Word → Nat → Bool

/-- The processor signature RDX holds at reset: R39 says that there is one and gives no number, and R1 assumes no
processor model. DESIGN CHOICE, log entry 4. -/
def Config.processorSignature : Word := 0

end Sys2Proof
end

