-- ==== Sys2Proof/Syntax.lean ====
section
/-! DEFINITION. The instructions: one constructor of `Instr` per row of spec/opcode_table.json (R2, R122, R129),
with the operands as the encoding holds them. -/

namespace Sys2Proof

/-- The number of a vector register, 0 to 31 (R23, R95, R106). -/
abbrev VReg := BitVec 5

/-- The number of a general register, 0 to 15 (R30). -/
abbrev GReg := BitVec 4

/-- The displacement bytes of a memory operand as they stand in the instruction: before the scaling of an 8-bit
displacement (R112, R116, R117). -/
inductive Disp where
  | none
  | disp8 (d : BitVec 8)
  | disp32 (d : BitVec 32)
deriving DecidableEq, Repr

/-- A memory operand, by the addressing forms of R112 to R114. -/
inductive MemOp where
  /-- ModRM names the base register itself; no SIB byte (R112). -/
  | base (b : GReg) (disp : Disp)
  /-- RIP-relative: `mod = 00b`, `r/m = 101b` (R113). -/
  | ripRel (disp : BitVec 32)
  /-- SIB byte with a base register; the index number 0100b means no index (R114). -/
  | sib (b : GReg) (idx : GReg) (scale : BitVec 2) (disp : Disp)
  /-- SIB byte without a base register: `mod = 00b`, `SIB.base = 101b` (R114). -/
  | sibNoBase (idx : GReg) (scale : BitVec 2) (disp : BitVec 32)
deriving DecidableEq, Repr

/-- Operand 2: a vector register or a memory location (R82, R111). -/
inductive RegMem where
  | reg (n : VReg)
  | mem (m : MemOp)
deriving DecidableEq, Repr

/-- The writemask fields of an EVEX prefix: `aaa` (R108) and `z` (R109). -/
structure Mask where
  aaa : BitVec 3
  z : Bool
deriving DecidableEq, Repr

/-- The instructions, one constructor per row of spec/opcode_table.json. `d` is operand 1, the destination register. -/
inductive Instr where
  /-- `VCVTPH2PS xmm1, xmm2/m64`, form 1 (R161). -/
  | vexPs128 (d : VReg) (src : RegMem)
  /-- `VCVTPH2PS ymm1, xmm2/m128`, form 2 (R162). -/
  | vexPs256 (d : VReg) (src : RegMem)
  /-- `VCVTPH2PS xmm1 {k1}{z}, xmm2/m64`, form 3 (R173). -/
  | evexPs128 (d : VReg) (k : Mask) (src : RegMem)
  /-- `VCVTPH2PS ymm1 {k1}{z}, xmm2/m128`, form 4 (R174). -/
  | evexPs256 (d : VReg) (k : Mask) (src : RegMem)
  /-- `VCVTPH2PS zmm1 {k1}{z}, ymm2/m256`, form 5 (R175). -/
  | evexPs512 (d : VReg) (k : Mask) (src : RegMem)
  /-- `VCVTPH2PS zmm1 {k1}{z}, ymm2, {sae}`, form 5 with the sae token (R176). -/
  | evexPs512Sae (d : VReg) (k : Mask) (n : VReg)
  /-- `VCVTPH2PSX xmm1{k1}{z}, xmm2/m64`, form 6 (R188). -/
  | psx128 (d : VReg) (k : Mask) (src : RegMem)
  /-- `VCVTPH2PSX ymm1{k1}{z}, xmm2/m128`, form 7 (R189). -/
  | psx256 (d : VReg) (k : Mask) (src : RegMem)
  /-- `VCVTPH2PSX zmm1{k1}{z}, ymm2/m256`, form 8 (R190). -/
  | psx512 (d : VReg) (k : Mask) (src : RegMem)
  /-- `VCVTPH2PSX xmm1{k1}{z}, m16bcst`, form 6 with broadcast (R191). -/
  | psx128Bcst (d : VReg) (k : Mask) (m : MemOp)
  /-- `VCVTPH2PSX ymm1{k1}{z}, m16bcst`, form 7 with broadcast (R192). -/
  | psx256Bcst (d : VReg) (k : Mask) (m : MemOp)
  /-- `VCVTPH2PSX zmm1{k1}{z}, m16bcst`, form 8 with broadcast (R193). -/
  | psx512Bcst (d : VReg) (k : Mask) (m : MemOp)
  /-- `VCVTPH2PSX zmm1{k1}{z}, ymm2, {sae}`, form 8 with the sae token (R194). -/
  | psx512Sae (d : VReg) (k : Mask) (n : VReg)
deriving DecidableEq, Repr

end Sys2Proof
end

