-- ==== Sys2Proof/WellFormed.lean ====
section
/-! DEFINITION. Which terms of the syntax an encoding of R119 can hold. -/

namespace Sys2Proof

/-- R112, R114: which base registers and displacements an addressing form can name. Without a SIB byte `r/m = 100b`
is not a base (it selects the SIB byte); with `mod = 00b`, that is without displacement, `101b` is not a base. -/
def MemOp.wf : MemOp → Bool
  | .base b disp => b.extractLsb' 0 3 != 4#3 && !(b.extractLsb' 0 3 == 5#3 && disp == .none)
  | .ripRel _ => true
  | .sib b _ _ disp => !(b.extractLsb' 0 3 == 5#3 && disp == .none)
  | .sibNoBase _ _ _ => true

/-- R110: zeroing-masking without a writemask is no encoding of this pair. -/
def Mask.wf (k : Mask) : Bool := !(k.z && k.aaa == 0#3)

/-- R95: a VEX form names vector registers 0 to 15 only. -/
def VReg.vexWf (n : VReg) : Bool := n.extractLsb' 4 1 == 0#1

/-- Operand 2 of an EVEX form. -/
def RegMem.evexWf : RegMem → Bool
  | .reg _ => true
  | .mem m => m.wf

/-- Operand 2 of a VEX form. -/
def RegMem.vexWf : RegMem → Bool
  | .reg n => VReg.vexWf n
  | .mem m => m.wf

/-- An instruction some byte string encodes (R119, R124). -/
def Instr.wf : Instr → Bool
  | .vexPs128 d src => VReg.vexWf d && src.vexWf
  | .vexPs256 d src => VReg.vexWf d && src.vexWf
  | .evexPs128 _ k src => k.wf && src.evexWf
  | .evexPs256 _ k src => k.wf && src.evexWf
  | .evexPs512 _ k src => k.wf && src.evexWf
  | .evexPs512Sae _ k _ => k.wf
  | .psx128 _ k src => k.wf && src.evexWf
  | .psx256 _ k src => k.wf && src.evexWf
  | .psx512 _ k src => k.wf && src.evexWf
  | .psx128Bcst _ k m => k.wf && m.wf
  | .psx256Bcst _ k m => k.wf && m.wf
  | .psx512Bcst _ k m => k.wf && m.wf
  | .psx512Sae _ k _ => k.wf

end Sys2Proof
end

