-- ==== Sys2Proof/Decode.lean ====
section
/-! DEFINITION. Decoding (R119) as a total function of bytes, the length of an instruction (R121), and the encoder,
both from the layouts of R84, R96 and R111 to R117. Bytes stand in ascending address order (R50). -/

namespace Sys2Proof

/-- Why `Decode` gives a byte string no meaning (R124). -/
inductive DecodeRefusal where
  /-- R124 (a): the first byte is neither C4H nor 62H (a legacy or REX prefix, C5H, another instruction). -/
  | firstByte (b : Byte)
  /-- R124 (b): map, pp or opcode byte is not of this instruction pair (R90). -/
  | otherInstruction
  /-- R124 (c): `z = 1` with `aaa = 000b` (R110). -/
  | zeroingWithoutMask
  /-- R124 (d): the sae encoding with `L'L` 01b or 11b (R103). -/
  | saeLength
  /-- The bytes end before the instruction does (R81). -/
  | truncated
deriving DecidableEq, Repr

/-- The outcome of `Decode` (R119): a form with its fields and the bytes after it, #UD, or a refusal by name. -/
inductive DecodeResult where
  | instr (i : Instr) (rest : List Byte)
  | ud
  | refused (why : DecodeRefusal)
deriving DecidableEq, Repr

/-! ### The fields of a byte -/

/-- ModRM bits 7:6, also the `scale` field of SIB (R111, R114). -/
def top2 (b : Byte) : BitVec 2 := b.extractLsb' 6 2

/-- ModRM bits 5:3, also the `index` field of SIB (R111, R114). -/
def mid3 (b : Byte) : BitVec 3 := b.extractLsb' 3 3

/-- ModRM bits 2:0, also the `base` field of SIB (R111, R114). -/
def low3 (b : Byte) : BitVec 3 := b.extractLsb' 0 3

/-- A stored-inverted one-bit field, complemented before use (R118). -/
def invBit (b : Byte) (i : Nat) : BitVec 1 := ~~~(b.extractLsb' i 1)

/-! ### ModRM, SIB and displacement -/

/-- Four displacement bytes, least significant first (R117). -/
def takeDisp32 : List Byte → Option (BitVec 32 × List Byte)
  | a :: b :: c :: d :: rest => some (d ++ c ++ b ++ a, rest)
  | _ => none

/-- The displacement that `mod` announces, 00b, 01b or 10b (R112). -/
def takeDisp (mod : BitVec 2) (bytes : List Byte) : Option (Disp × List Byte) :=
  if mod = 0#2 then some (.none, bytes)
  else if mod = 1#2 then
    match bytes with
    | a :: rest => some (.disp8 a, rest)
    | [] => none
  else (takeDisp32 bytes).map fun p => (.disp32 p.1, p.2)

/-- The SIB form (R114): `x` and `b` are the extension bits of index and base, complemented. -/
def parseSib (x b : BitVec 1) (mod : BitVec 2) : List Byte → Option (MemOp × List Byte)
  | [] => none
  | sib :: rest =>
    if mod = 0#2 ∧ low3 sib = 5#3 then
      (takeDisp32 rest).map fun p => (.sibNoBase (x ++ mid3 sib) (top2 sib) p.1, p.2)
    else
      (takeDisp mod rest).map fun p => (.sib (b ++ low3 sib) (x ++ mid3 sib) (top2 sib) p.1, p.2)

/-- The memory operand that follows a ModRM byte with `mod` not 11b (R112 to R114). -/
def parseMem (x b : BitVec 1) (modrm : Byte) (rest : List Byte) : Option (MemOp × List Byte) :=
  if low3 modrm = 4#3 then parseSib x b (top2 modrm) rest
  else if top2 modrm = 0#2 ∧ low3 modrm = 5#3 then
    (takeDisp32 rest).map fun p => (.ripRel p.1, p.2)
  else
    (takeDisp (top2 modrm) rest).map fun p => (.base (b ++ low3 modrm) p.1, p.2)

/-- Operand 2 (R111). `x4` is bit 4 of a register source: 0 for VEX (R95), `~X` complemented for EVEX (R106). -/
def parseRegMem (x4 x b : BitVec 1) (modrm : Byte) (rest : List Byte) : Option (RegMem × List Byte) :=
  if top2 modrm = 3#2 then some (.reg (x4 ++ b ++ low3 modrm), rest)
  else (parseMem x b modrm rest).map fun p => (.mem p.1, p.2)

/-- The end of every branch of `Decode`: bytes that stop short are refused. -/
def finish {α : Type} (mk : α → Instr) : Option (α × List Byte) → DecodeResult
  | some (a, rest) => .instr (mk a) rest
  | none => .refused .truncated

/-! ### The two prefixes -/

/-- R119, first branch: the bytes after C4H, a VEX prefix (R84). -/
def decodeVex : List Byte → DecodeResult
  | p1 :: p2 :: opcode :: tail =>
    if p1.extractLsb' 0 5 ≠ 2#5 ∨ p2.extractLsb' 0 2 ≠ 1#2 ∨ opcode ≠ 0x13#8 then .refused .otherInstruction
    else if p2.extractLsb' 7 1 = 1#1 then .ud
    else if p2.extractLsb' 3 4 ≠ 15#4 then .ud
    else
      match tail with
      | [] => .refused .truncated
      | modrm :: rest =>
        let d : VReg := 0#1 ++ invBit p1 7 ++ mid3 modrm
        let src := parseRegMem 0#1 (invBit p1 6) (invBit p1 5) modrm rest
        if p2.extractLsb' 2 1 = 0#1 then finish (.vexPs128 d) src else finish (.vexPs256 d) src
  | _ => .refused .truncated

/-- The plain forms of an EVEX encoding (`b = 0`), by map and `L'L` (R101, R122). -/
def plainForm (psx : Bool) (ll : BitVec 2) (d : VReg) (k : Mask) (src : RegMem) : Instr :=
  if ll = 0#2 then (if psx then .psx128 d k src else .evexPs128 d k src)
  else if ll = 1#2 then (if psx then .psx256 d k src else .evexPs256 d k src)
  else (if psx then .psx512 d k src else .evexPs512 d k src)

/-- The broadcast forms, map 6 only, by `L'L` (R102 (d), R122). -/
def bcstForm (ll : BitVec 2) (d : VReg) (k : Mask) (m : MemOp) : Instr :=
  if ll = 0#2 then .psx128Bcst d k m else if ll = 1#2 then .psx256Bcst d k m else .psx512Bcst d k m

/-- R119, second branch, from `mod <- bytes[5][7:6]` on: the map, the bytes P0 and P2 and the rest are known to be of
this pair, and W, vvvv, V' and the fixed bits hold what they must. -/
def decodeEvexTail (psx : Bool) (p0 p2 : Byte) : List Byte → DecodeResult
  | [] => .refused .truncated
  | modrm :: rest =>
    let d : VReg := invBit p0 4 ++ invBit p0 7 ++ mid3 modrm
    let k : Mask := ⟨p2.extractLsb' 0 3, p2.extractLsb' 7 1 == 1#1⟩
    let ll := p2.extractLsb' 5 2
    let b := p2.extractLsb' 4 1
    let x := invBit p0 6
    let bx := invBit p0 5
    if top2 modrm = 3#2 ∧ b = 1#1 then
      if ll = 1#2 ∨ ll = 3#2 then .refused .saeLength
      else if k.z = true ∧ k.aaa = 0#3 then .refused .zeroingWithoutMask
      else .instr ((if psx then Instr.psx512Sae else Instr.evexPs512Sae) d k (x ++ bx ++ low3 modrm)) rest
    else if ll = 3#2 then .ud
    else if b = 1#1 ∧ psx = false then .ud
    else if k.z = true ∧ k.aaa = 0#3 then .refused .zeroingWithoutMask
    else if b = 1#1 then finish (bcstForm ll d k) (parseMem x bx modrm rest)
    else finish (plainForm psx ll d k) (parseRegMem x x bx modrm rest)

/-- R119, second branch: the bytes after 62H, an EVEX prefix (R96). -/
def decodeEvex : List Byte → DecodeResult
  | p0 :: p1 :: p2 :: opcode :: tail =>
    if p0.extractLsb' 3 1 ≠ 0#1 ∨ p1.extractLsb' 2 1 ≠ 1#1 then .ud
    else if (p0.extractLsb' 0 3 ≠ 2#3 ∧ p0.extractLsb' 0 3 ≠ 6#3) ∨ p1.extractLsb' 0 2 ≠ 1#2 ∨ opcode ≠ 0x13#8 then
      .refused .otherInstruction
    else if p1.extractLsb' 7 1 = 1#1 then .ud
    else if p1.extractLsb' 3 4 ≠ 15#4 ∨ p2.extractLsb' 3 1 ≠ 1#1 then .ud
    else decodeEvexTail (p0.extractLsb' 0 3 == 6#3) p0 p2 tail
  | _ => .refused .truncated

/-- `Decode` of R119, but for its last two lines: the CPUID flags and `MAXVL` are the machine's and stand in the
meaning of each form (R120, R21). -/
def decode : List Byte → DecodeResult
  | [] => .refused .truncated
  | b0 :: rest =>
    if b0 = 0xC4#8 then decodeVex rest
    else if b0 = 0x62#8 then decodeEvex rest
    else .refused (.firstByte b0)

/-! ### Length (R121) -/

/-- `D`, the displacement bytes. -/
def Disp.len : Disp → Nat
  | .none => 0
  | .disp8 _ => 1
  | .disp32 _ => 4

/-- `S + D`, the bytes after ModRM of a memory operand. -/
def MemOp.len : MemOp → Nat
  | .base _ disp => disp.len
  | .ripRel _ => 4
  | .sib _ _ _ disp => 1 + disp.len
  | .sibNoBase _ _ _ => 5

/-- `S + D`, the bytes after ModRM of operand 2. -/
def RegMem.len : RegMem → Nat
  | .reg _ => 0
  | .mem m => m.len

/-- `len` of a VEX instruction: three prefix bytes, opcode, ModRM, and what follows. -/
def vexLen (src : RegMem) : Nat := 3 + 2 + src.len

/-- `len` of an EVEX instruction: four prefix bytes, opcode, ModRM, and what follows. -/
def evexLen (src : RegMem) : Nat := 4 + 2 + src.len

/-- R121: the length in bytes of an encoded instruction. -/
def Instr.len : Instr → Nat
  | .vexPs128 _ src => vexLen src
  | .vexPs256 _ src => vexLen src
  | .evexPs128 _ _ src => evexLen src
  | .evexPs256 _ _ src => evexLen src
  | .evexPs512 _ _ src => evexLen src
  | .evexPs512Sae _ _ n => evexLen (.reg n)
  | .psx128 _ _ src => evexLen src
  | .psx256 _ _ src => evexLen src
  | .psx512 _ _ src => evexLen src
  | .psx128Bcst _ _ m => evexLen (.mem m)
  | .psx256Bcst _ _ m => evexLen (.mem m)
  | .psx512Bcst _ _ m => evexLen (.mem m)
  | .psx512Sae _ _ n => evexLen (.reg n)

/-- The longest instruction in scope, an EVEX form with SIB byte and disp32 (R81). -/
def maxInstrLen : Nat := 11

/-! ### The encoder -/

/-- The `mod` field that announces a displacement of a form with a base register (R112). -/
def Disp.mod : Disp → BitVec 2
  | .none => 0#2
  | .disp8 _ => 1#2
  | .disp32 _ => 2#2

/-- Displacement bytes, least significant first (R117). -/
def Disp.bytes : Disp → List Byte
  | .none => []
  | .disp8 d => [d]
  | .disp32 d => [d.extractLsb' 0 8, d.extractLsb' 8 8, d.extractLsb' 16 8, d.extractLsb' 24 8]

/-- Bit 3 of the index register number, 0 where there is none. -/
def MemOp.xBit : MemOp → BitVec 1
  | .base _ _ => 0#1
  | .ripRel _ => 0#1
  | .sib _ idx _ _ => idx.extractLsb' 3 1
  | .sibNoBase idx _ _ => idx.extractLsb' 3 1

/-- Bit 3 of the base register number, 0 where there is none. -/
def MemOp.bBit : MemOp → BitVec 1
  | .base b _ => b.extractLsb' 3 1
  | .ripRel _ => 0#1
  | .sib b _ _ _ => b.extractLsb' 3 1
  | .sibNoBase _ _ _ => 0#1

/-- A ModRM or SIB byte from its three fields (R111, R114). -/
def packByte (hi : BitVec 2) (mid lo : BitVec 3) : Byte := hi ++ mid ++ lo

/-- ModRM and the bytes after it for a memory operand (R111 to R117); `reg` is the ModRM.reg field. -/
def MemOp.tail (reg : BitVec 3) : MemOp → List Byte
  | .base b disp => packByte disp.mod reg (b.extractLsb' 0 3) :: disp.bytes
  | .ripRel d => packByte 0#2 reg 5#3 :: (Disp.disp32 d).bytes
  | .sib b idx scale disp =>
    packByte disp.mod reg 4#3 :: packByte scale (idx.extractLsb' 0 3) (b.extractLsb' 0 3) :: disp.bytes
  | .sibNoBase idx scale d =>
    packByte 0#2 reg 4#3 :: packByte scale (idx.extractLsb' 0 3) 5#3 :: (Disp.disp32 d).bytes

/-- ModRM and the bytes after it for operand 2. -/
def RegMem.tail (reg : BitVec 3) : RegMem → List Byte
  | .reg n => [packByte 3#2 reg (n.extractLsb' 0 3)]
  | .mem m => m.tail reg

/-- The X extension of a VEX form; ignored by the decoder for a register source (R84), and then stored as 1. -/
def RegMem.vexX : RegMem → BitVec 1
  | .reg _ => 0#1
  | .mem m => m.xBit

/-- The X extension of an EVEX form: bit 4 of a register source (R96). -/
def RegMem.evexX : RegMem → BitVec 1
  | .reg n => n.extractLsb' 4 1
  | .mem m => m.xBit

/-- The B extension (R84, R96). -/
def RegMem.bBit : RegMem → BitVec 1
  | .reg n => n.extractLsb' 3 1
  | .mem m => m.bBit

/-- A VEX encoding (R84, R85). -/
def encodeVex (l : BitVec 1) (d : VReg) (src : RegMem) : List Byte :=
  [0xC4#8, (~~~(d.extractLsb' 3 1) ++ ~~~src.vexX ++ ~~~src.bBit ++ 2#5 : BitVec 8),
    (0#1 ++ 15#4 ++ l ++ 1#2 : BitVec 8), 0x13#8] ++ src.tail (d.extractLsb' 0 3)

/-- An EVEX encoding (R96, R97); `map` is the `mmm` field. -/
def encodeEvex (map : BitVec 3) (ll : BitVec 2) (b : BitVec 1) (d : VReg) (k : Mask) (src : RegMem) : List Byte :=
  [0x62#8,
    (~~~(d.extractLsb' 3 1) ++ ~~~src.evexX ++ ~~~src.bBit ++ ~~~(d.extractLsb' 4 1) ++ 0#1 ++ map : BitVec 8),
    (0#1 ++ 15#4 ++ 1#1 ++ 1#2 : BitVec 8),
    (BitVec.ofBool k.z ++ ll ++ b ++ 1#1 ++ k.aaa : BitVec 8), 0x13#8] ++ src.tail (d.extractLsb' 0 3)

/-- The bytes of an instruction, by the table of R122. For the sae forms `L'L` is 00b, as assemblers emit it (R103). -/
def encode : Instr → List Byte
  | .vexPs128 d src => encodeVex 0#1 d src
  | .vexPs256 d src => encodeVex 1#1 d src
  | .evexPs128 d k src => encodeEvex 2#3 0#2 0#1 d k src
  | .evexPs256 d k src => encodeEvex 2#3 1#2 0#1 d k src
  | .evexPs512 d k src => encodeEvex 2#3 2#2 0#1 d k src
  | .evexPs512Sae d k n => encodeEvex 2#3 0#2 1#1 d k (.reg n)
  | .psx128 d k src => encodeEvex 6#3 0#2 0#1 d k src
  | .psx256 d k src => encodeEvex 6#3 1#2 0#1 d k src
  | .psx512 d k src => encodeEvex 6#3 2#2 0#1 d k src
  | .psx128Bcst d k m => encodeEvex 6#3 0#2 1#1 d k (.mem m)
  | .psx256Bcst d k m => encodeEvex 6#3 1#2 1#1 d k (.mem m)
  | .psx512Bcst d k m => encodeEvex 6#3 2#2 1#1 d k (.mem m)
  | .psx512Sae d k n => encodeEvex 6#3 0#2 1#1 d k (.reg n)

/-! ### The host's view of an encoding -/

/-- The first `n` bytes of a number whose least significant byte stands at the lowest address. -/
def bytesOfNat : Nat → Nat → List Byte
  | 0, _ => []
  | n + 1, w => BitVec.ofNat 8 w :: bytesOfNat n (w / 256)

/-- The bytes of a table word: `nbits` bits of `w`, zeros above them up to the longest instruction. -/
def tableBytes (nbits w : Nat) : List Byte := bytesOfNat maxInstrLen (w % 2 ^ nbits)

/-- The instruction the decoder reads from a table word. -/
def decodeTableWord (nbits w : Nat) : Option Instr :=
  match decode (tableBytes nbits w) with
  | .instr i _ => some i
  | .ud => none
  | .refused _ => none

end Sys2Proof
end

