-- ==== Sys2Proof/Machine/State.lean ====
section
/-! DEFINITION. The state of the machine (10_state.md, R244), the reasons a step can stop (60_exceptions.md, R124),
and the state after reset (R39, R241). -/

namespace Sys2Proof.Machine

open Sys2Proof

/-- The parameter `MAXVL`: one of 128, 256, 512 (R8). -/
inductive MaxVl where
  | w128
  | w256
  | w512
deriving DecidableEq, Repr

/-- The parameter `features`: the CPUID feature flags the processor reports (R8, R34). -/
structure Features where
  /-- CPUID.01H:ECX bit 29. -/
  f16c : Bool
  /-- CPUID.(EAX=07H,ECX=0):EBX bit 16. -/
  avx512f : Bool
  /-- CPUID.(EAX=07H,ECX=0):EBX bit 31. -/
  avx512vl : Bool
  /-- CPUID.(EAX=07H,ECX=0):EDX bit 23. -/
  avx512fp16 : Bool
deriving DecidableEq, Repr

/-- What a read of a byte of a region meets. -/
inductive RegionKind where
  /-- `mem_admits` answers #PF(code) (R59, R210). The bits of the code are not specified (R60). -/
  | pageFault (code : BitVec 32)
  /-- A device, which is outside the model (R58). -/
  | device
deriving DecidableEq, Repr

/-- A run of linear addresses whose bytes are not ordinary readable memory. -/
structure Region where
  base : Word
  size : Nat
  kind : RegionKind
deriving DecidableEq, Repr

/-- Byte-addressed memory (R36): the bytes that differ from what an unlisted address reads as, by rising address. -/
abbrev Memory := List Host.Cell

/-- The processor modes R7 and R34 name. -/
inductive Mode where
  | realAddress
  | virtual8086
  | protected32
  | compatibility
  | systemManagement
  | mode64
deriving DecidableEq, Repr

/-- The state of the one agent, the logical processor (R18), with the parameters its launch state gives (R8, R244). -/
structure State where
  /-- Vector registers `V[0..31]` (R20, R23); the low `MAXVL` bits of each are the register. -/
  v : Vector VecWord 32
  /-- Opmask registers `K[0..7]` (R24). -/
  k : Vector (BitVec 64) 8
  /-- General registers `G[0..15]` (R30). -/
  g : Vector Word 16
  /-- The linear address of the instruction being executed (R31). -/
  pc : Word
  /-- RFLAGS (R32); AC is bit 18 (R34). -/
  rflags : BitVec 64
  /-- MXCSR (R26). -/
  mxcsr : BitVec 32
  /-- CR0 (R34): PE bit 0, TS bit 3, AM bit 18. -/
  cr0 : BitVec 64
  /-- CR2 (R202). No form writes it (R38, R210): the address a #PF records stands in the exception. -/
  cr2 : Word
  /-- CR4 (R34): OSXMMEXCPT bit 10, OSXSAVE bit 18; and bit 12, 5-level paging (R59; log entry 6). -/
  cr4 : BitVec 64
  /-- XCR0 (R34). -/
  xcr0 : BitVec 64
  /-- EFER (R34); LMA is bit 10 (log entry 6). -/
  efer : BitVec 64
  /-- CS.L (R34). -/
  csL : Bool
  /-- The current privilege level (R34, R223). -/
  cpl : BitVec 2
  /-- The processor is in system-management mode (R7). -/
  smm : Bool
  /-- Memory (R36): data and instruction bytes alike. -/
  mem : Memory
  /-- The open part of the parameter `mem_admits` (R59). -/
  regions : List Region
  /-- The address of the first byte of the program text (R244). -/
  textBase : Word
  /-- The number of bytes of the program text; the bytes themselves are those of `mem` (R36, R63, R244). -/
  textLen : Nat
  /-- The parameter `MAXVL` (R8, R244). -/
  maxvl : MaxVl
  /-- The parameter `features` (R8, R244). -/
  features : Features
  /-- The configuration field `cvt_nan` (R138): the FP16 NaNs whose FP32 result is not the default of R137 and R138,
  each with its result. The empty list is the default. An entry that is no NaN of its input's sign is not used. -/
  cvtNan : List (Half × Single)
deriving DecidableEq, Repr

/-- The exceptions of R202 with the information each carries. All of them are faults (R219). -/
inductive Exception where
  /-- #UD, vector 6: an illegal encoding (R203), the processor state (R204), or an unmasked SIMD floating-point
  exception with CR4.OSXMMEXCPT = 0 (R147). Safe. -/
  | ud
  /-- #NM, vector 7: CR0.TS = 1 (R205); a meaning raises it, no run does (R34). Safe. -/
  | nm
  /-- #SS(0), vector 12: a non-canonical operand address formed with RSP or RBP as base (R209). Safe. -/
  | ss
  /-- #GP(0), vector 13: any other non-canonical operand address (R209). Safe. -/
  | gp
  /-- #PF(code), vector 14: the read of an operand byte is refused (R210). Safe: it also arises from a byte of a
  masked-off lane, where the chip suppresses it (R56). `address` is what CR2 records (R202). -/
  | pf (code : BitVec 32) (address : Word)
  /-- #AC(0), vector 17: an EVEX form, with alignment checking on, an operand not aligned to its own size, and the free
  value `Config.evexReportsAc` saying so (R53, R207); a meaning raises it, no run does (R34, R211). Safe. -/
  | ac
  /-- #XM, vector 19: an unmasked SIMD floating-point exception (R147, R212). Safe. -/
  | xm
deriving DecidableEq, Repr

/-- How the machine stops with a fault. -/
inductive Fault where
  /-- `fault(#XX, info, pc)` of R220, raised by `raise` alone. The run ends here: delivery to a handler is not in the
  spec. `after` is the state the exception leaves (R38, R219): the state before the instruction, but for the MXCSR
  flags of an unmasked SIMD floating-point exception (R147). Safe: nothing is claimed of what follows. -/
  | exception (x : Exception) (savedPc : Word) (after : State)
deriving DecidableEq, Repr

/-- The parts of the launch premise beside the mode: `env_ok` (R34) and the reserved bits of MXCSR (R244). -/
inductive Premise where
  /-- CR0.TS = 0. -/
  | tsClear
  /-- CR4.OSXSAVE = 1. -/
  | osxsave
  /-- CR4.OSXMMEXCPT = 1. -/
  | osxmmexcpt
  /-- Alignment checking is off (R53). -/
  | alignmentOff
  /-- MXCSR bits 31:16 are 0 (R26, R244). -/
  | mxcsrReserved
  /-- The XCR0 bits that the VEX forms, or the EVEX forms, need are 1. -/
  | xcr0 (vex : Bool)
deriving DecidableEq, Repr

/-- Why the machine gives what it meets no meaning. Every refusal is safe: nothing is claimed of what the chip does. -/
inductive Refusal where
  /-- An instruction without a meaning yet; raised by `exec` alone. Safe. -/
  | notModelled (mnemonic : String)
  /-- The decoder refuses the bytes at `pc` (R124); raised by `step`. Safe. -/
  | undecodable (why : DecodeRefusal)
  /-- A mode other than 64-bit mode (R7, R124 (e)); raised by `step` in each of them, and by the checks before every
  meaning in 32-bit protected, compatibility and system-management mode. Safe. -/
  | modeOutOfScope (m : Mode)
  /-- A launch that does not meet the premise of R34 and R244, with the part that fails (D27, items U17 and U18 of
  93_implementation_defined.md); raised by `step`. Safe. -/
  | launchRefused (p : Premise)
  /-- The memory operand touches a device (R58); raised by the load. Safe. -/
  | deviceOperand (address : Word)
  /-- `pc` is the address after the last byte of the program text: the run has ended normally (R245); raised by
  `step`. Safe. -/
  | endOfText
  /-- `pc` is at no byte of the program text (R63); raised by `step`. Safe. -/
  | outsideText
deriving DecidableEq, Repr

/-- The machine right after reset: the values of R39 and R241, and for what they leave open those of log entries
2 to 6. The processor is in real-address mode with CR4.OSXSAVE = 0, so every form raises #UD (R241, R243). -/
def State.reset : State where
  v := Vector.replicate 32 0
  k := Vector.replicate 8 0
  g := (Vector.replicate 16 0).set 2 Config.processorSignature
  pc := 0xFFFFFFF0
  rflags := 0x2
  mxcsr := 0x1F80
  cr0 := 0x60000010
  cr2 := 0
  cr4 := 0
  xcr0 := 1
  efer := 0
  csL := false
  cpl := 0
  smm := false
  mem := []
  regions := []
  textBase := 0
  textLen := 0
  maxvl := .w512
  features := ⟨true, true, true, true⟩
  cvtNan := []

end Sys2Proof.Machine
end

