-- ==== Sys2Proof/Machine/Flags.lean ====
section
/-! DEFINITION. The bits of MXCSR, RFLAGS and the control registers, and the flag computations: what an exception flag
does to MXCSR and whether it is masked (R26, R34, R145, R146). -/

namespace Sys2Proof.Machine

open Sys2Proof

/-- A subset of the two exception flags the pair can signal (R15). -/
structure FpFlags where
  ie : Bool
  de : Bool
deriving DecidableEq, Repr

/-- No flag. -/
def FpFlags.empty : FpFlags := ⟨false, false⟩

/-- The union of two sets of flags (R144). -/
def FpFlags.union (a b : FpFlags) : FpFlags := ⟨a.ie || b.ie, a.de || b.de⟩

/-- R142: VCVTPH2PS does not report DE. -/
def FpFlags.reported (psx : Bool) (f : FpFlags) : FpFlags := ⟨f.ie, f.de && psx⟩

/-! ### MXCSR (R26) -/

/-- The sticky flags IE (bit 0) and DE (bit 1) of a set, as a word to be ORed into MXCSR. -/
def FpFlags.bits (f : FpFlags) : BitVec 32 := (if f.ie then 1#32 else 0#32) ||| (if f.de then 2#32 else 0#32)

/-- MXCSR with the flags of `f` set and every other bit as it was (R145, R147). -/
def setMxcsrFlags (mxcsr : BitVec 32) (f : FpFlags) : BitVec 32 := mxcsr ||| f.bits

/-- MXCSR.IM, bit 7. -/
def mxcsrIM (mxcsr : BitVec 32) : Bool := mxcsr.getLsbD 7

/-- MXCSR.DM, bit 8. -/
def mxcsrDM (mxcsr : BitVec 32) : Bool := mxcsr.getLsbD 8

/-- R146: some flag of `f` is unmasked. -/
def unmasked (mxcsr : BitVec 32) (f : FpFlags) : Bool := (f.ie && !mxcsrIM mxcsr) || (f.de && !mxcsrDM mxcsr)

/-! ### Control state (R34) -/

/-- CR0.TS. -/
def State.ts (s : State) : Bool := s.cr0.getLsbD 3

/-- CR4.OSXSAVE. -/
def State.osxsave (s : State) : Bool := s.cr4.getLsbD 18

/-- CR4.OSXMMEXCPT. -/
def State.osxmmexcpt (s : State) : Bool := s.cr4.getLsbD 10

/-- 5-level paging is on (R59). The spec names no bit for it; CR4 bit 12 is the family's. PRESUMED, log entry 6. -/
def State.la57 (s : State) : Bool := s.cr4.getLsbD 12

/-- XCR0 has bits 1 and 2, and for an EVEX form bits 5, 6 and 7 as well (R34, R204 (c)). -/
def State.xcr0Enables (s : State) (vex : Bool) : Bool :=
  s.xcr0.getLsbD 1 && s.xcr0.getLsbD 2 && (vex || (s.xcr0.getLsbD 5 && s.xcr0.getLsbD 6 && s.xcr0.getLsbD 7))

/-- Alignment checking is on: CR0.AM = 1, EFLAGS.AC = 1 and CPL = 3 (R53). -/
def State.alignmentChecking (s : State) : Bool := s.cr0.getLsbD 18 && s.rflags.getLsbD 18 && s.cpl == 3#2

/-- The processor mode: CR0.PE, EFER.LMA and CS.L select 64-bit mode (R34). The place of EFER.LMA and the bit of RFLAGS
that selects virtual-8086 mode, bit 17, are the family's. Paging (R242 item 1) is not read: EFER.LMA stands for it.
PRESUMED, log entry 6. -/
def State.mode (s : State) : Mode :=
  if s.smm then .systemManagement
  else if !s.cr0.getLsbD 0 then .realAddress
  else if s.efer.getLsbD 10 then (if s.csL then .mode64 else .compatibility)
  else if s.rflags.getLsbD 17 then .virtual8086
  else .protected32

end Sys2Proof.Machine
end

