-- ==== Sys2Proof/Machine/Convert.lean ====
section
/-! DEFINITION. The element conversion FP16 to FP32 and the per-lane procedure (40_convert_element.md). -/

namespace Sys2Proof.Machine

open Sys2Proof

/-! ### The fields of the two formats (R131, R132) -/

/-- The sign of an FP16 value. -/
def halfSign (h : Half) : BitVec 1 := h.extractLsb' 15 1

/-- The biased exponent of an FP16 value. -/
def halfExp (h : Half) : BitVec 5 := h.extractLsb' 10 5

/-- The fraction of an FP16 value. -/
def halfFrac (h : Half) : BitVec 10 := h.extractLsb' 0 10

/-- The sign of an FP32 value. -/
def singleSign (r : Single) : BitVec 1 := r.extractLsb' 31 1

/-- The biased exponent of an FP32 value. -/
def singleExp (r : Single) : BitVec 8 := r.extractLsb' 23 8

/-- The fraction of an FP32 value. -/
def singleFrac (r : Single) : BitVec 23 := r.extractLsb' 0 23

/-- An FP32 value from its fields. -/
def packSingle (s : BitVec 1) (e : BitVec 8) (f : BitVec 23) : Single := s ++ e ++ f

/-- An FP32 NaN (R132). -/
def isSingleNaN (r : Single) : Bool := singleExp r == 255#8 && singleFrac r != 0#23

/-- An FP16 denormal (R131). -/
def isHalfDenormal (h : Half) : Bool := halfExp h == 0#5 && halfFrac h != 0#10

/-- An FP16 NaN (R131). -/
def isHalfNaN (h : Half) : Bool := halfExp h == 31#5 && halfFrac h != 0#10

/-- A signalling FP16 NaN: the top fraction bit is 0 (R131, R138). -/
def isHalfSNaN (h : Half) : Bool := isHalfNaN h && !(halfFrac h).getLsbD 9

/-! ### `cvt_h2s` -/

/-- The largest `p < n` with bit `p` of `f` set; 0 if there is none. -/
def msbBelow (f : BitVec 10) : Nat → Nat
  | 0 => 0
  | n + 1 => if f.getLsbD n then n else msbBelow f n

/-- `msb_index` of R135 and R139. -/
def msbIndex (f : BitVec 10) : Nat := msbBelow f 10

/-- The default of `cvt_nan`: sign and payload kept, the quiet bit forced (R137, R138). -/
def defaultNaN (h : Half) : Single := packSingle (halfSign h) 255#8 ((halfFrac h ||| 0x200#10) ++ 0#13)

/-- `cvt_nan` (R138): the result the configuration lists for `h`, which must be a NaN with the sign of `h` (D14, U11),
and else the default. -/
def cvtNaN (cfg : List (Half × Single)) (h : Half) : Single :=
  match cfg.lookup h with
  | some r => if isSingleNaN r && singleSign r == halfSign h then r else defaultNaN h
  | none => defaultNaN h

/-- `cvt_h2s` (R139). -/
def cvtH2s (cfg : List (Half × Single)) (h : Half) : Single × FpFlags :=
  let s := halfSign h
  let e := halfExp h
  let f := halfFrac h
  if e = 0#5 then
    if f = 0#10 then (packSingle s 0#8 0#23, ⟨false, false⟩)
    else
      (packSingle s (BitVec.ofNat 8 (msbIndex f + 103)) (BitVec.ofNat 23 (f.toNat * 2 ^ (23 - msbIndex f))), ⟨false, true⟩)
  else if e = 31#5 then
    if f = 0#10 then (packSingle s 255#8 0#23, ⟨false, false⟩)
    else (cvtNaN cfg h, ⟨!f.getLsbD 9, false⟩)
  else (packSingle s (BitVec.ofNat 8 (e.toNat + 112)) (f ++ 0#13), ⟨false, false⟩)

/-! ### `ConvertLanes` (R144) -/

/-- The union of the flags of the active lanes below `n`, DE left out for VCVTPH2PS (R142, R143). -/
def laneFlags (cfg : List (Half × Single)) (psx : Bool) (elem : Nat → Half) (active : Nat → Bool) : Nat → FpFlags
  | 0 => .empty
  | n + 1 =>
    (laneFlags cfg psx elem active n).union
      (if active n then (cvtH2s cfg (elem n)).2.reported psx else .empty)

/-- `ConvertLanes` of R144: the result of each lane, which means something for the active lanes only, and the flags. -/
def convertLanes (cfg : List (Half × Single)) (kl : Nat) (elem : Nat → Half) (active : Nat → Bool) (psx : Bool) :
    (Nat → Single) × FpFlags :=
  (fun j => (cvtH2s cfg (elem j)).1, laneFlags cfg psx elem active kl)

end Sys2Proof.Machine
end

