-- ==== Sys2Proof/Machine/Forms.lean ====
section
/-! DEFINITION. The eight forms of the pair and what each of them fixes: vector length, lane count, CPUID flags,
exception class (R2, R9, R201). -/

namespace Sys2Proof.Machine

open Sys2Proof

/-- The forms of R2, in its order. -/
inductive Form where
  | vex128
  | vex256
  | evex128
  | evex256
  | evex512
  | psx128
  | psx256
  | psx512
deriving DecidableEq, Repr

/-- `VL`, the vector length in bits (R9, R87, R101). -/
def Form.vl : Form → Nat
  | .vex128 | .evex128 | .psx128 => 128
  | .vex256 | .evex256 | .psx256 => 256
  | .evex512 | .psx512 => 512

/-- `KL`, the number of lanes (R9). -/
def Form.kl (f : Form) : Nat := f.vl / 32

/-- The form has a VEX prefix; the others have an EVEX prefix (R2). -/
def Form.vex : Form → Bool
  | .vex128 | .vex256 => true
  | .evex128 | .evex256 | .evex512 | .psx128 | .psx256 | .psx512 => false

/-- The form is of VCVTPH2PSX (R2). -/
def Form.psx : Form → Bool
  | .psx128 | .psx256 | .psx512 => true
  | .vex128 | .vex256 | .evex128 | .evex256 | .evex512 => false

/-- R120: every CPUID flag that R2 lists for the form is reported. -/
def Form.available (f : Form) (c : Features) : Bool :=
  match f with
  | .vex128 | .vex256 => c.f16c
  | .evex128 | .evex256 => c.avx512vl && c.avx512f
  | .evex512 => c.avx512f
  | .psx128 | .psx256 => c.avx512fp16 && c.avx512vl
  | .psx512 => c.avx512fp16

/-- The bytes of the full memory operand, `2*KL` (R52). -/
def Form.bytes (f : Form) : Nat := 2 * f.kl

/-- `NVEC`: 32 vector registers, 16 on a processor without AVX512F (R23). -/
def Features.nvec (c : Features) : Nat := if c.avx512f then 32 else 16

/-- `MAXVL` in bits (R8). -/
def MaxVl.bits : MaxVl → Nat
  | .w128 => 128
  | .w256 => 256
  | .w512 => 512

end Sys2Proof.Machine

namespace Sys2Proof

open Machine

/-- The form of R2. -/
def Instr.form : Instr → Form
  | .vexPs128 _ _ => .vex128
  | .vexPs256 _ _ => .vex256
  | .evexPs128 _ _ _ => .evex128
  | .evexPs256 _ _ _ => .evex256
  | .evexPs512 _ _ _ => .evex512
  | .evexPs512Sae _ _ _ => .evex512
  | .psx128 _ _ _ => .psx128
  | .psx256 _ _ _ => .psx256
  | .psx512 _ _ _ => .psx512
  | .psx128Bcst _ _ _ => .psx128
  | .psx256Bcst _ _ _ => .psx256
  | .psx512Bcst _ _ _ => .psx512
  | .psx512Sae _ _ _ => .psx512

end Sys2Proof
end

