-- ==== Sys2Proof/Machine/Ops.lean ====
section
/-! DEFINITION. The shared operations over registers and memory, taking an exception, the checks before every form,
the load (R66) and the commit (R149). Return from an exception is out of scope (R221), and has no operation here. -/

namespace Sys2Proof.Machine

open Sys2Proof

/-- What a step, or a meaning, answers. -/
abbrev Result := Host.Outcome State Fault Refusal

/-! ### Taking an exception -/

/-- MXCSR replaced. -/
def State.withMxcsr (s : State) (m : BitVec 32) : State := { s with mxcsr := m }

/-- `raise #XX(info)` (R14, R220): the run ends with the exception and its information, the address of the instruction
as the saved `pc`, and the state at hand, in which nothing is written (R38, R219). The caller has set the MXCSR flags
of #XM (R147). -/
def raise (x : Exception) (s : State) : Result := .fault (.exception x s.pc s)

/-- The vector number (R202). -/
def Exception.vector : Exception → Nat
  | .ud => 6
  | .nm => 7
  | .ss => 12
  | .gp => 13
  | .pf _ _ => 14
  | .ac => 17
  | .xm => 19

/-- The error code, where there is one (R202). -/
def Exception.errorCode : Exception → Option (BitVec 32)
  | .ud => none
  | .nm => none
  | .ss => some 0
  | .gp => some 0
  | .pf code _ => some code
  | .ac => some 0
  | .xm => none

/-- The linear address that a delivery would record in CR2 (R202). Delivery is outside the model and no form writes
CR2 (R38, R210, R220); log entry 8. -/
def Exception.recordedCr2 : Exception → Option Word
  | .ud => none
  | .nm => none
  | .ss => none
  | .gp => none
  | .pf _ address => some address
  | .ac => none
  | .xm => none

/-- Why a check before the commit ends the instruction. -/
inductive Stop where
  | raises (x : Exception)
  | refuses (r : Refusal)
deriving DecidableEq, Repr

/-- The outcome a check that failed gives. -/
def Stop.outcome (s : State) : Stop → Result
  | .raises x => raise x s
  | .refuses r => .refused r

/-! ### Registers -/

/-- `V[n]` (R12, R20). -/
def State.readV (s : State) (n : VReg) : VecWord := s.v[n.toNat]'n.isLt

/-- `V[n] <- x`. -/
def State.writeV (s : State) (n : VReg) (x : VecWord) : State := { s with v := s.v.set n.toNat x n.isLt }

/-- `K[n]` (R12, R24). -/
def State.readK (s : State) (n : BitVec 3) : BitVec 64 := s.k[n.toNat]'n.isLt

/-- `G[n]` (R12, R30). -/
def State.readG (s : State) (n : GReg) : Word := s.g[n.toNat]'n.isLt

/-- `x.fp32[j]` (R11). -/
def lane (x : VecWord) (j : Nat) : Single := x.extractLsb' (32 * j) 32

/-- `x.fp16[j]` (R11). -/
def elemAt {w : Nat} (x : BitVec w) (j : Nat) : Half := x.extractLsb' (16 * j) 16

/-- The vector whose lanes below `n` are the given ones and whose other bits are 0. -/
def packLanes (value : Nat → Single) : Nat → VecWord
  | 0 => 0
  | n + 1 => packLanes value n ||| ((value n).setWidth 512 <<< (32 * n))

/-! ### Memory -/

/-- What an unlisted address reads as. The spec gives no reset contents of memory. DESIGN CHOICE, unsafe, log entry 7. -/
def unlistedByte : Byte := 0

/-- The byte at an address. -/
def Memory.read : Memory → Nat → Byte
  | [], _ => unlistedByte
  | (k, b) :: rest, a => if k = a then b else Memory.read rest a

/-- One byte written, the canonical form kept. -/
def Memory.write : Memory → Nat → Byte → Memory
  | [], a, b => if b = unlistedByte then [] else [(a, b)]
  | (k, c) :: rest, a, b =>
    if a < k then (if b = unlistedByte then (k, c) :: rest else (a, b) :: (k, c) :: rest)
    else if a = k then (if b = unlistedByte then rest else (a, b) :: rest)
    else (k, c) :: Memory.write rest a b

/-- The canonical form: addresses in the address space and strictly rising, no entry that an unlisted address equals. -/
def Memory.wf : Memory → Bool
  | [] => true
  | (a, b) :: rest => decide (a < 2 ^ 64) && b != unlistedByte && rest.all (fun c => decide (a < c.1)) && Memory.wf rest

/-- The byte at a linear address. -/
def State.readByte (s : State) (a : Word) : Byte := s.mem.read a.toNat

/-- One byte stored. No instruction of the pair stores (R13, R36); a program is placed with it. -/
def State.writeByte (s : State) (a : Word) (b : Byte) : State := { s with mem := s.mem.write a.toNat b }

/-- Bytes stored from an address upward (`MemWrite` of R13). -/
def State.writeBytes (s : State) (a : Word) : List Byte → State
  | [] => s
  | b :: rest => (s.writeByte a b).writeBytes (a + 1) rest

/-- `n` bytes as one value, byte `i` at bits `[8*i+7 : 8*i]`: little-endian (R50). -/
def packBytes (value : Nat → Byte) : Nat → BitVec 256
  | 0 => 0
  | n + 1 => packBytes value n ||| ((value n).setWidth 256 <<< (8 * n))

/-- `MemRead(a, n)` for the operand sizes of R52, at most 32 bytes (R13, R50). -/
def State.memRead (s : State) (a : Word) (n : Nat) : BitVec 256 :=
  packBytes (fun i => s.readByte (a + BitVec.ofNat 64 i)) n

/-! ### `mem_admits` (R59) -/

/-- A canonical linear address: bits 63:47 all equal with 4-level paging, bits 63:56 with 5-level paging (R59). -/
def canonical (la57 : Bool) (a : Word) : Bool :=
  if la57 then a.extractLsb' 56 8 == 0#8 || a.extractLsb' 56 8 == BitVec.allOnes 8
  else a.extractLsb' 47 17 == 0#17 || a.extractLsb' 47 17 == BitVec.allOnes 17

/-- The `n` bytes at `a` are canonical; an operand that wraps past 2^64 is not (R59). -/
def canonicalOperand (la57 : Bool) (a : Word) (n : Nat) : Bool :=
  decide (a.toNat + n ≤ 2 ^ 64) && (List.range n).all fun i => canonical la57 (a + BitVec.ofNat 64 i)

/-- The byte lies in the region. -/
def Region.contains (r : Region) (a : Word) : Bool :=
  decide (r.base.toNat ≤ a.toNat) && decide (a.toNat < r.base.toNat + r.size)

/-- What a read of one byte meets: the kind of the first region that holds it. -/
def regionAt (regions : List Region) (a : Word) : Option RegionKind := (regions.find? (·.contains a)).map (·.kind)

/-- The first byte of an operand whose read paging refuses, with the fault code (R210). -/
def firstPageFault (s : State) (a : Word) (n : Nat) : Option (BitVec 32 × Word) :=
  (List.range n).findSome? fun i =>
    match regionAt s.regions (a + BitVec.ofNat 64 i) with
    | some (.pageFault code) => some (code, a + BitVec.ofNat 64 i)
    | some .device => none
    | none => none

/-- The first byte of an operand that lies in a device (R58). -/
def firstDevice (s : State) (a : Word) (n : Nat) : Option Word :=
  (List.range n).findSome? fun i =>
    match regionAt s.regions (a + BitVec.ofNat 64 i) with
    | some .device => some (a + BitVec.ofNat 64 i)
    | some (.pageFault _) => none
    | none => none

/-- #AC (R53, R206, R207, R211): never for a VEX form; for an EVEX form with alignment checking on and an operand not
aligned to its own size the spec does not say, and the free value decides, the same for Type E11 and Type E2.
DESIGN CHOICE, log entry 11. -/
def alignmentFault (vex : Bool) (a : Word) (n : Nat) (s : State) : Bool :=
  !vex && s.alignmentChecking && decide (a.toNat % n ≠ 0) && Config.evexReportsAc a n

/-- `mem_admits(a, n)` (R59), with the order of R215: #SS(0) or #GP(0), then #PF, then #AC. `stackBase` says that the
address was formed with RSP or RBP as base (R209). -/
def memStop (vex : Bool) (a : Word) (n : Nat) (stackBase : Bool) (s : State) : Option Stop :=
  if canonicalOperand s.la57 a n = false then some (.raises (if stackBase then .ss else .gp))
  else
    match firstPageFault s a n with
    | some p => some (.raises (.pf p.1 p.2))
    | none =>
      if alignmentFault vex a n s then some (.raises .ac)
      else (firstDevice s a n).map fun d => .refuses (.deviceOperand d)

/-- The check and the read of `LoadSrc` (R66): the whole operand, whatever the writemask (R56). -/
def load (vex : Bool) (a : Word) (n : Nat) (stackBase : Bool) (s : State) : Except Stop (BitVec 256) :=
  match memStop vex a n stackBase s with
  | some stop => .error stop
  | none => .ok (s.memRead a n)

/-! ### The checks before every form -/

/-- What the processor mode does to a form: #UD in real-address and virtual-8086 mode (R204 (a), R241), a refusal in
the other modes that the scope leaves out (R7, R124 (e)). No run reaches a form outside 64-bit mode, since `step` refuses
the bytes there (`modeRefusal`); log entries 13 and 14. -/
def modeStop (s : State) : Option Stop :=
  match s.mode with
  | .realAddress => some (.raises .ud)
  | .virtual8086 => some (.raises .ud)
  | .protected32 => some (.refuses (.modeOutOfScope .protected32))
  | .compatibility => some (.refuses (.modeOutOfScope .compatibility))
  | .systemManagement => some (.refuses (.modeOutOfScope .systemManagement))
  | .mode64 => none

/-- R7, R8, R124 (e): every byte string is refused by name in every mode but 64-bit mode, where it may be another
instruction (R83). -/
def modeRefusal (s : State) : Option Refusal := if s.mode = .mode64 then none else some (.modeOutOfScope s.mode)

/-- Whether a part of the launch premise holds (R34, R53, R244). -/
def Premise.holds (s : State) : Premise → Bool
  | .tsClear => !s.ts
  | .osxsave => s.osxsave
  | .osxmmexcpt => s.osxmmexcpt
  | .alignmentOff => !s.alignmentChecking
  | .mxcsrReserved => s.mxcsr.extractLsb' 16 16 == 0#16
  | .xcr0 vex => s.xcr0Enables vex

/-- The parts of the launch premise that every byte string needs. Those of XCR0 depend on the form (`formRefusal`). -/
def commonPremises : List Premise := [.tsClear, .osxsave, .osxmmexcpt, .alignmentOff, .mxcsrReserved]

/-- R34, R244: a launch outside 64-bit mode, or one that a part of the premise fails for, is refused and not run (D27,
items U17 and U18 of 93_implementation_defined.md). No instruction writes what the premise reads, so asking at every step
is asking at the launch. -/
def launchRefusal (s : State) : Option Refusal :=
  match modeRefusal s with
  | some r => some r
  | none => (commonPremises.find? fun p => !p.holds s).map .launchRefused

/-- R34: a launch without the XCR0 bits that a form needs is refused where it comes to that form. -/
def formRefusal (f : Form) (s : State) : Option Refusal :=
  if (Premise.xcr0 f.vex).holds s then none else some (.launchRefused (.xcr0 f.vex))

/-- The registers that an instruction names exist (R23). That naming one which does not exist is #UD is the model's.
DEDUCED, log entry 25. -/
def registersExist (c : Features) (d : VReg) (src : RegMem) : Bool :=
  decide (d.toNat < c.nvec) &&
    match src with
    | .reg n => decide (n.toNat < c.nvec)
    | .mem _ => true

/-- The #UD conditions of a legal encoding: CR4.OSXSAVE, XCR0 (R204), the CPUID flags (R120), `MAXVL` (R21, R119) and
the number of registers (R23). -/
def formUnavailable (f : Form) (d : VReg) (src : RegMem) (s : State) : Bool :=
  !s.osxsave || !s.xcr0Enables f.vex || !f.available s.features || decide (s.maxvl.bits < f.vl) ||
    !registersExist s.features d src

/-- What stops a form before it touches an operand, in the order of R215: #UD, then #NM (R204, R205). A step comes here
only in a launch that meets R34 (`launchRefusal`, `formRefusal`); without it the meaning still does what these rules, and
item U17 of 93_implementation_defined.md, say the chip does. Log entry 13. -/
def accessStop (f : Form) (d : VReg) (src : RegMem) (s : State) : Option Stop :=
  match modeStop s with
  | some stop => some stop
  | none =>
    if formUnavailable f d src s then some (.raises .ud)
    else if s.ts then some (.raises .nm)
    else none

/-- What an encoding that is #UD by itself does (R203); `step` comes here under the launch premise only. -/
def illegalEncoding (s : State) : Result := raise .ud s

/-! ### `Commit` (R149) -/

/-- The value of lane `j` of the destination: converted, zeroed or kept (R172). -/
def newLane (old : VecWord) (res : Nat → Single) (active : Nat → Bool) (zeroing : Bool) (j : Nat) : Single :=
  if active j then res j else if zeroing then 0 else lane old j

/-- All that a form which completes writes (R38): `V[d]`, MXCSR and `pc`. -/
def State.retire (s : State) (d : VReg) (x : VecWord) (mxcsr : BitVec 32) (len : Nat) : State :=
  { s.writeV d x with mxcsr := mxcsr, pc := s.pc + BitVec.ofNat 64 len }

/-- An unmasked SIMD floating-point exception is #XM, or #UD if CR4.OSXMMEXCPT = 0 (R147, R212). -/
def simdException (s : State) : Exception := if s.osxmmexcpt then .xm else .ud

/-- `Commit` of R149, the last step of every form; `len` is the instruction's length (R31). -/
def commit (d : VReg) (kl : Nat) (res : Nat → Single) (f : FpFlags) (active : Nat → Bool) (zeroing sae : Bool)
    (len : Nat) (s : State) : Result :=
  if !sae && unmasked s.mxcsr f then
    raise (simdException s) (s.withMxcsr (setMxcsrFlags s.mxcsr f))
  else
    .next
      (s.retire d (packLanes (newLane (s.readV d) res active zeroing) kl)
        (if sae then s.mxcsr else setMxcsrFlags s.mxcsr f) len)

end Sys2Proof.Machine
end

