-- ==== Sys2Proof/Machine/Operands.lean ====
section
/-! DEFINITION. The operand forms: the effective address (R111 to R117), operand 2 as a register, as a full memory
operand and as a broadcast element (R160, R171, R187), the writemask (R108, R109), and the body that all forms share. -/

namespace Sys2Proof.Machine

open Sys2Proof

/-! ### Addresses -/

/-- The displacement term: an 8-bit displacement is sign-extended and scaled by `N`, a 32-bit one sign-extended only
(R116, R117). -/
def dispTerm (scaleN : Nat) : Disp → Word
  | .none => 0
  | .disp8 d => d.signExtend 64 * BitVec.ofNat 64 scaleN
  | .disp32 d => d.signExtend 64

/-- The scaled index term; index number 0100b is no index (R114). -/
def indexTerm (s : State) (idx : GReg) (scale : BitVec 2) : Word :=
  if idx = 4#4 then 0 else s.readG idx <<< scale.toNat

/-- The effective address, which is the linear address (R113 to R115, R35). `scaleN` is N of R116 and `len` the
instruction's length. -/
def effectiveAddress (s : State) (scaleN len : Nat) : MemOp → Word
  | .base b disp => s.readG b + dispTerm scaleN disp
  | .ripRel d => s.pc + BitVec.ofNat 64 len + d.signExtend 64
  | .sib b idx scale disp => s.readG b + indexTerm s idx scale + dispTerm scaleN disp
  | .sibNoBase idx scale d => indexTerm s idx scale + d.signExtend 64

/-- The address is formed with RSP (number 4) or RBP (number 5) as base (R59, R209). -/
def stackBase : MemOp → Bool
  | .base b _ => b == 4#4 || b == 5#4
  | .ripRel _ => false
  | .sib b _ _ _ => b == 4#4 || b == 5#4
  | .sibNoBase _ _ _ => false

/-! ### Operand 2 -/

/-- The elements of operand 2 of a VEX form (R160); N is 1 (R94). -/
def vexElems (f : Form) (src : RegMem) (s : State) : Except Stop (Nat → Half) :=
  match src with
  | .reg n => .ok (elemAt (s.readV n))
  | .mem m => (load true (effectiveAddress s 1 (vexLen src) m) f.bytes (stackBase m) s).map fun x => elemAt x

/-- The elements of operand 2 of an EVEX form without broadcast (R171, R187); N is the operand's byte count (R116). -/
def evexElems (f : Form) (src : RegMem) (s : State) : Except Stop (Nat → Half) :=
  match src with
  | .reg n => .ok (elemAt (s.readV n))
  | .mem m => (load false (effectiveAddress s f.bytes (evexLen src) m) f.bytes (stackBase m) s).map fun x => elemAt x

/-- The elements of a broadcast operand: the one element of the two bytes read, for every lane (R57, R187); N is 2. -/
def bcstElems (m : MemOp) (s : State) : Except Stop (Nat → Half) :=
  (load false (effectiveAddress s 2 (evexLen (.mem m)) m) 2 (stackBase m) s).map fun x _ => elemAt x 0

/-! ### The writemask -/

/-- The active lanes: all of them if `aaa = 000b`, else those whose bit of `K[aaa]` is 1 (R108, R171). -/
def maskActive (s : State) (k : Mask) (j : Nat) : Bool := k.aaa == 0#3 || (s.readK k.aaa).getLsbD j

/-- Every lane is active: a VEX form has no writemask (R160). -/
def allActive (_ : Nat) : Bool := true

/-! ### The body of every form -/

/-- The checks, the source, `ConvertLanes` and `Commit` in the order of R215. -/
def convertForm (f : Form) (d : VReg) (src : RegMem) (elems : Except Stop (Nat → Half)) (active : Nat → Bool)
    (zeroing sae : Bool) (len : Nat) (s : State) : Result :=
  match accessStop f d src s with
  | some stop => stop.outcome s
  | none =>
    match elems with
    | .error stop => stop.outcome s
    | .ok elem =>
      commit d f.kl (convertLanes s.cvtNan f.kl elem active f.psx).1
        (convertLanes s.cvtNan f.kl elem active f.psx).2 active zeroing sae len s

end Sys2Proof.Machine
end

