-- ==== Sys2Proof/Machine/EvexPs.lean ====
section
/-! DEFINITION. VCVTPH2PS, the EVEX-encoded forms (42_vcvtph2ps_evex.md). -/

namespace Sys2Proof.Machine

open Sys2Proof

/-- `ExecEvexPH2PS` of R172 with the operand resolution of R171. -/
def execEvexPs (f : Form) (d : VReg) (k : Mask) (src : RegMem) (sae : Bool) (s : State) : Result :=
  convertForm f d src (evexElems f src s) (maskActive s k) k.z sae (evexLen src) s

/-- R173: VCVTPH2PS xmm1 k1 z, xmm2/m64. -/
def execEvexPs128 (d : VReg) (k : Mask) (src : RegMem) (s : State) : Result := execEvexPs .evex128 d k src false s

/-- R174: VCVTPH2PS ymm1 k1 z, xmm2/m128. -/
def execEvexPs256 (d : VReg) (k : Mask) (src : RegMem) (s : State) : Result := execEvexPs .evex256 d k src false s

/-- R175: VCVTPH2PS zmm1 k1 z, ymm2/m256. -/
def execEvexPs512 (d : VReg) (k : Mask) (src : RegMem) (s : State) : Result := execEvexPs .evex512 d k src false s

/-- R176: VCVTPH2PS zmm1 k1 z, ymm2, sae. The source is a register and VL is 512. -/
def execEvexPs512Sae (d : VReg) (k : Mask) (n : VReg) (s : State) : Result := execEvexPs .evex512 d k (.reg n) true s

end Sys2Proof.Machine
end

