-- ==== Sys2Proof/Machine/EvexPsx.lean ====
section
/-! DEFINITION. VCVTPH2PSX (43_vcvtph2psx.md). -/

namespace Sys2Proof.Machine

open Sys2Proof

/-- `ExecPH2PSX` of R187, register and full-memory source. -/
def execPsx (f : Form) (d : VReg) (k : Mask) (src : RegMem) (sae : Bool) (s : State) : Result :=
  convertForm f d src (evexElems f src s) (maskActive s k) k.z sae (evexLen src) s

/-- `ExecPH2PSX` of R187, broadcast source. -/
def execPsxBcst (f : Form) (d : VReg) (k : Mask) (m : MemOp) (s : State) : Result :=
  convertForm f d (.mem m) (bcstElems m s) (maskActive s k) k.z false (evexLen (.mem m)) s

/-- R188: VCVTPH2PSX xmm1 k1 z, xmm2/m64. -/
def execPsx128 (d : VReg) (k : Mask) (src : RegMem) (s : State) : Result := execPsx .psx128 d k src false s

/-- R189: VCVTPH2PSX ymm1 k1 z, xmm2/m128. -/
def execPsx256 (d : VReg) (k : Mask) (src : RegMem) (s : State) : Result := execPsx .psx256 d k src false s

/-- R190: VCVTPH2PSX zmm1 k1 z, ymm2/m256. -/
def execPsx512 (d : VReg) (k : Mask) (src : RegMem) (s : State) : Result := execPsx .psx512 d k src false s

/-- R191: VCVTPH2PSX xmm1 k1 z, m16bcst. -/
def execPsx128Bcst (d : VReg) (k : Mask) (m : MemOp) (s : State) : Result := execPsxBcst .psx128 d k m s

/-- R192: VCVTPH2PSX ymm1 k1 z, m16bcst. -/
def execPsx256Bcst (d : VReg) (k : Mask) (m : MemOp) (s : State) : Result := execPsxBcst .psx256 d k m s

/-- R193: VCVTPH2PSX zmm1 k1 z, m16bcst. -/
def execPsx512Bcst (d : VReg) (k : Mask) (m : MemOp) (s : State) : Result := execPsxBcst .psx512 d k m s

/-- R194: VCVTPH2PSX zmm1 k1 z, ymm2, sae. The source is a register, each lane takes its own element, VL is 512. -/
def execPsx512Sae (d : VReg) (k : Mask) (n : VReg) (s : State) : Result := execPsx .psx512 d k (.reg n) true s

end Sys2Proof.Machine
end

