-- ==== Sys2Proof/Machine/Vex.lean ====
section
/-! DEFINITION. VCVTPH2PS, the VEX-encoded forms (41_vcvtph2ps_vex.md). -/

namespace Sys2Proof.Machine

open Sys2Proof

/-- The common body of R160 to R162: every lane active, `zeroing = false`, `sae = false`. -/
def execVex (f : Form) (d : VReg) (src : RegMem) (s : State) : Result :=
  convertForm f d src (vexElems f src s) allActive false false (vexLen src) s

/-- R161: VCVTPH2PS xmm1, xmm2/m64. -/
def execVexPs128 (d : VReg) (src : RegMem) (s : State) : Result := execVex .vex128 d src s

/-- R162: VCVTPH2PS ymm1, xmm2/m128. -/
def execVexPs256 (d : VReg) (src : RegMem) (s : State) : Result := execVex .vex256 d src s

end Sys2Proof.Machine
end

