-- ==== Sys2Proof/Machine/Dispatch.lean ====
section
/-! DEFINITION. One arm per constructor of `Instr`: the meaning of each row of spec/opcode_table.json. -/

namespace Sys2Proof.Machine

open Sys2Proof

def exec (i : Instr) (s : State) : Host.Outcome State Fault Refusal :=
  match i with
  | .vexPs128 d src => Sys2Proof.Machine.execVexPs128 d src s
  | .vexPs256 d src => Sys2Proof.Machine.execVexPs256 d src s
  | .evexPs128 d k src => Sys2Proof.Machine.execEvexPs128 d k src s
  | .evexPs256 d k src => Sys2Proof.Machine.execEvexPs256 d k src s
  | .evexPs512 d k src => Sys2Proof.Machine.execEvexPs512 d k src s
  | .evexPs512Sae d k n => Sys2Proof.Machine.execEvexPs512Sae d k n s
  | .psx128 d k src => Sys2Proof.Machine.execPsx128 d k src s
  | .psx256 d k src => Sys2Proof.Machine.execPsx256 d k src s
  | .psx512 d k src => Sys2Proof.Machine.execPsx512 d k src s
  | .psx128Bcst d k m => Sys2Proof.Machine.execPsx128Bcst d k m s
  | .psx256Bcst d k m => Sys2Proof.Machine.execPsx256Bcst d k m s
  | .psx512Bcst d k m => Sys2Proof.Machine.execPsx512Bcst d k m s
  | .psx512Sae d k n => Sys2Proof.Machine.execPsx512Sae d k n s

end Sys2Proof.Machine
end

