-- ==== Sys2Proof/Machine/Fetch.lean ====
section
/-! DEFINITION. Fetching the bytes of an instruction from the program text (R63, R244, R245), and placing a program:
the launch that stands between reset and a run (R240, R242, R244). -/

namespace Sys2Proof.Machine

open Sys2Proof

/-- The offset of `pc` in the program text. -/
def State.textOffset (s : State) : Nat := (s.pc - s.textBase).toNat

/-- The bytes at `pc`, ascending (R50), up to the longest instruction or the end of the text, whichever comes first
(R63). At the address after the last byte the run has ended (R245). -/
def fetch (s : State) : Except Refusal (List Byte) :=
  if s.textOffset < s.textLen then
    .ok ((List.range (min maxInstrLen (s.textLen - s.textOffset))).map fun i => s.readByte (s.pc + BitVec.ofNat 64 i))
  else if s.textOffset = s.textLen then .error .endOfText
  else .error .outsideText

/-- A program text placed at `pc` (R63, R244). -/
def State.withText (s : State) (bytes : List Byte) : State :=
  { s.writeBytes s.pc bytes with textBase := s.pc, textLen := bytes.length }

/-- The launch premise `env_ok` brought about (R34, R242): 64-bit mode, CR0.TS = 0, CR4.OSXSAVE = 1,
CR4.OSXMMEXCPT = 1, XCR0 bits 1, 2, 5, 6 and 7 set, alignment checking off. Every other bit stays. R242 item 1 names
paging and the spec gives no bit for it: EFER.LMA stands for paging too, and bit 31 of CR0, where the family has PG, stays
as it was, 0 after reset. DESIGN CHOICE, log entries 1 and 6. -/
def State.launched (s : State) : State :=
  { s with
    smm := false
    cr0 := (s.cr0 ||| 0x1#64) &&& ~~~(0x40008#64)
    efer := s.efer ||| 0x400#64
    csL := true
    cr4 := s.cr4 ||| 0x40400#64
    xcr0 := s.xcr0 ||| 0xE6#64 }

end Sys2Proof.Machine
end

