-- ==== Sys2Proof/Machine/Step.lean ====
section
/-! DEFINITION. One step of the machine: fetch, decode, and the meaning of what is decoded (R18). -/

namespace Sys2Proof.Machine

open Sys2Proof

/-- One step (R18): the next state, a fault (R220) or a refusal (R7, R34, R124, R244, R245). -/
def step (s : State) : Host.Outcome State Fault Refusal :=
  match fetch s with
  | .error r => .refused r
  | .ok bytes =>
    match launchRefusal s with
    | some r => .refused r
    | none =>
      match decode bytes with
      | .instr i _ =>
        match formRefusal i.form s with
        | some r => .refused r
        | none => exec i s
      | .ud => illegalEncoding s
      | .refused why => .refused (.undecodable why)

/-- `s` launched (R244) with the instruction of a table word as its program text at `pc`. A run starts from a launch
state and not from reset (R240), so the launch premise that the fetch of a 64-bit encoding needs (R34, R83) is brought
about with the text. Log entry 1. -/
def State.withFetchWord (s : State) (nbits w : Nat) : State := s.launched.withText (tableBytes nbits w)

end Sys2Proof.Machine
end

