-- ==== Sys2Proof/Safety.lean ====
section
/-! DEFINITION. The terms claims use: what an instruction names (its form, destination, mask, source elements), when
nothing stands in its way, what it detects, what it leaves behind, and the invariant of the machine. -/

namespace Sys2Proof

open Machine

/-! ### What an instruction names -/

/-- Operand 1. -/
def Instr.dest : Instr → VReg
  | .vexPs128 d _ => d
  | .vexPs256 d _ => d
  | .evexPs128 d _ _ => d
  | .evexPs256 d _ _ => d
  | .evexPs512 d _ _ => d
  | .evexPs512Sae d _ _ => d
  | .psx128 d _ _ => d
  | .psx256 d _ _ => d
  | .psx512 d _ _ => d
  | .psx128Bcst d _ _ => d
  | .psx256Bcst d _ _ => d
  | .psx512Bcst d _ _ => d
  | .psx512Sae d _ _ => d

/-- The writemask fields; a VEX form has none. -/
def Instr.mask : Instr → Option Mask
  | .vexPs128 _ _ => none
  | .vexPs256 _ _ => none
  | .evexPs128 _ k _ => some k
  | .evexPs256 _ k _ => some k
  | .evexPs512 _ k _ => some k
  | .evexPs512Sae _ k _ => some k
  | .psx128 _ k _ => some k
  | .psx256 _ k _ => some k
  | .psx512 _ k _ => some k
  | .psx128Bcst _ k _ => some k
  | .psx256Bcst _ k _ => some k
  | .psx512Bcst _ k _ => some k
  | .psx512Sae _ k _ => some k

/-- Operand 2. -/
def Instr.source : Instr → RegMem
  | .vexPs128 _ src => src
  | .vexPs256 _ src => src
  | .evexPs128 _ _ src => src
  | .evexPs256 _ _ src => src
  | .evexPs512 _ _ src => src
  | .evexPs512Sae _ _ n => .reg n
  | .psx128 _ _ src => src
  | .psx256 _ _ src => src
  | .psx512 _ _ src => src
  | .psx128Bcst _ _ m => .mem m
  | .psx256Bcst _ _ m => .mem m
  | .psx512Bcst _ _ m => .mem m
  | .psx512Sae _ _ n => .reg n

/-- The operand is one element used for every lane (R57). -/
def Instr.broadcasts : Instr → Bool
  | .psx128Bcst _ _ _ => true
  | .psx256Bcst _ _ _ => true
  | .psx512Bcst _ _ _ => true
  | .vexPs128 _ _ | .vexPs256 _ _ | .evexPs128 _ _ _ | .evexPs256 _ _ _ | .evexPs512 _ _ _ | .evexPs512Sae _ _ _
  | .psx128 _ _ _ | .psx256 _ _ _ | .psx512 _ _ _ | .psx512Sae _ _ _ => false

/-- The encoding selects sae (R148). -/
def Instr.suppresses : Instr → Bool
  | .evexPs512Sae _ _ _ => true
  | .psx512Sae _ _ _ => true
  | .vexPs128 _ _ | .vexPs256 _ _ | .evexPs128 _ _ _ | .evexPs256 _ _ _ | .evexPs512 _ _ _
  | .psx128 _ _ _ | .psx256 _ _ _ | .psx512 _ _ _ | .psx128Bcst _ _ _ | .psx256Bcst _ _ _ | .psx512Bcst _ _ _ => false

/-- The bytes a memory source reads: `2*KL`, or 2 under broadcast (R52). -/
def Instr.readBytes (i : Instr) : Nat := if i.broadcasts then 2 else 2 * i.form.kl

/-- `N`, the scale of an 8-bit displacement (R94, R116). -/
def Instr.scaleN (i : Instr) : Nat := if i.form.vex then 1 else i.readBytes

/-- The linear address of a memory source (R115). -/
def Instr.address (i : Instr) (s : State) (m : MemOp) : Word := effectiveAddress s i.scaleN i.len m

/-- `*zeroing*` (R109). -/
def Instr.zeroes (i : Instr) : Bool :=
  match i.mask with
  | none => false
  | some k => k.z

/-- Lane `j` is active: no writemask, or its bit of `K[aaa]` is 1 (R108, R171). -/
def Instr.active (i : Instr) (s : State) (j : Nat) : Bool :=
  match i.mask with
  | none => true
  | some k => k.aaa == 0#3 || (s.readK k.aaa).getLsbD j

/-- The source element of lane `j`: bits `[16*j+15:16*j]` of the register, or the two bytes at `EA + 2*j`, or under
broadcast the two bytes at `EA` (R51, R57, R160, R171, R187). -/
def Instr.element (i : Instr) (s : State) (j : Nat) : Half :=
  match i.source with
  | .reg n => elemAt (s.readV n) j
  | .mem m =>
    if i.broadcasts then s.readByte (i.address s m + 1) ++ s.readByte (i.address s m)
    else
      s.readByte (i.address s m + BitVec.ofNat 64 (2 * j + 1)) ++ s.readByte (i.address s m + BitVec.ofNat 64 (2 * j))

namespace Machine

/-! ### When nothing stands in the way -/

/-- R242: 64-bit mode, CR4.OSXSAVE = 1, the XCR0 bits of the form, its CPUID flags, `VL` within `MAXVL`, CR0.TS = 0;
and the registers it names exist (R23). -/
structure Ready (i : Instr) (s : State) : Prop where
  mode : s.mode = .mode64
  osxsave : s.osxsave = true
  xcr0 : s.xcr0Enables i.form.vex = true
  features : i.form.available s.features = true
  maxvl : i.form.vl ≤ s.maxvl.bits
  registers : registersExist s.features i.dest i.source = true
  ts : s.ts = false

/-- The launch premise `env_ok` of R8 and R34 for a form. -/
structure EnvOk (f : Form) (s : State) : Prop where
  ts : s.ts = false
  osxsave : s.osxsave = true
  xcr0 : s.xcr0Enables f.vex = true
  osxmmexcpt : s.osxmmexcpt = true
  mode : s.mode = .mode64
  alignment : s.alignmentChecking = false

/-- The launch premise of R34 and R244 as far as it does not depend on a form: `env_ok` but for XCR0, and the reserved
bits of MXCSR zero. -/
structure LaunchOk (s : State) : Prop where
  mode : s.mode = .mode64
  ts : s.ts = false
  osxsave : s.osxsave = true
  osxmmexcpt : s.osxmmexcpt = true
  alignment : s.alignmentChecking = false
  mxcsr : s.mxcsr.extractLsb' 16 16 = 0#16

/-- The memory operand, where there is one, can be read: every byte canonical, none in a region that refuses the read,
and no alignment check that could fail (R53, R59): alignment checking is off, or the form is a VEX form, or the operand
is aligned to its own size, which the model takes to pass the check (DEDUCED, log entry 11). -/
def Readable (i : Instr) (s : State) : Prop :=
  match i.source with
  | .reg _ => True
  | .mem m =>
    canonicalOperand s.la57 (i.address s m) i.readBytes = true ∧
    (∀ j, j < i.readBytes → regionAt s.regions (i.address s m + BitVec.ofNat 64 j) = none) ∧
    (i.form.vex = true ∨ s.alignmentChecking = false ∨ (i.address s m).toNat % i.readBytes = 0)

/-! ### What is detected (R138, R142, R143, R146) -/

/-- Invalid: some active lane holds a signalling NaN. -/
def Invalid (i : Instr) (s : State) : Prop :=
  ∃ j, j < i.form.kl ∧ i.active s j = true ∧ isHalfSNaN (i.element s j) = true

/-- Denormal: the instruction is VCVTPH2PSX and some active lane holds a denormal. -/
def Denormal (i : Instr) (s : State) : Prop :=
  i.form.psx = true ∧ ∃ j, j < i.form.kl ∧ i.active s j = true ∧ isHalfDenormal (i.element s j) = true

/-- Some detected exception is unmasked, and the encoding does not suppress it (R146, R148). -/
def Trapping (i : Instr) (s : State) : Prop :=
  i.suppresses = false ∧
    ((Invalid i s ∧ mxcsrIM s.mxcsr = false) ∨ (Denormal i s ∧ mxcsrDM s.mxcsr = false))

/-- `m` is MXCSR of `s` with the flags of what was detected set and every other bit as it was (R145, R147). -/
def FlagsSet (i : Instr) (s : State) (m : BitVec 32) : Prop :=
  (m.getLsbD 0 = true ↔ s.mxcsr.getLsbD 0 = true ∨ Invalid i s) ∧
  (m.getLsbD 1 = true ↔ s.mxcsr.getLsbD 1 = true ∨ Denormal i s) ∧
  ∀ b, 2 ≤ b → m.getLsbD b = s.mxcsr.getLsbD b

/-! ### What a form leaves behind -/

/-- Everything that is not `V`, MXCSR or `pc` is as before, each byte of memory included (R38). -/
def RestUnchanged (s t : State) : Prop :=
  t = { s with v := t.v, mxcsr := t.mxcsr, pc := t.pc } ∧ ∀ a, t.readByte a = s.readByte a

/-- The effect of an instruction that completes (R38, R149, R172): each lane of the destination converted, zeroed or
kept, the bits from VL up zero, every other vector register kept, MXCSR flagged or left alone under sae, `pc` past the
instruction, and nothing else changed. -/
structure Completed (i : Instr) (s t : State) : Prop where
  lanes : ∀ j, j < i.form.kl →
    lane (t.readV i.dest) j =
      if i.active s j then (cvtH2s s.cvtNan (i.element s j)).1
      else if i.zeroes then 0 else lane (s.readV i.dest) j
  above : ∀ b, i.form.vl ≤ b → (t.readV i.dest).getLsbD b = false
  others : ∀ n, n ≠ i.dest → t.readV n = s.readV n
  suppressed : i.suppresses = true → t.mxcsr = s.mxcsr
  flags : i.suppresses = false → FlagsSet i s t.mxcsr
  pc : t.pc = s.pc + BitVec.ofNat 64 i.len
  rest : RestUnchanged s t

/-- The instruction runs: where nothing stands in its way and no unmasked exception is detected, `exec` answers a next
state with its effect. -/
def Runs (i : Instr) (s : State) : Prop :=
  Ready i s → Readable i s → ¬ Trapping i s → ∃ t, exec i s = .next t ∧ Completed i s t

/-! ### The numbers the formats stand for -/

/-- The value of a finite FP16 pattern (R131). -/
def halfValue (h : Half) : ℚ :=
  (-1) ^ (halfSign h).toNat *
    (if halfExp h = 0#5 then ((halfFrac h).toNat : ℚ) * 2 ^ (-24 : ℤ)
     else (1 + ((halfFrac h).toNat : ℚ) / 1024) * 2 ^ (((halfExp h).toNat : ℤ) - 15))

/-- The value of a finite FP32 pattern (R132). -/
def singleValue (r : Single) : ℚ :=
  (-1) ^ (singleSign r).toNat *
    (if singleExp r = 0#8 then ((singleFrac r).toNat : ℚ) * 2 ^ (-149 : ℤ)
     else (1 + ((singleFrac r).toNat : ℚ) / 8388608) * 2 ^ (((singleExp r).toNat : ℤ) - 127))

/-! ### The invariant -/

/-- What every step keeps: memory in its canonical form, every vector register within `MAXVL` bits (R20), the reserved
bits of MXCSR zero (R26), the program text within the address space, and on a processor without AVX512F 16 vector
registers and `MAXVL` 256 (R23). -/
structure State.Inv (s : State) : Prop where
  mem : s.mem.wf = true
  vregs : ∀ (n : VReg) (b : Nat), s.maxvl.bits ≤ b → (s.readV n).getLsbD b = false
  mxcsr : s.mxcsr.extractLsb' 16 16 = 0#16
  text : s.textLen ≤ 2 ^ 64
  nvec : ∀ n : VReg, s.features.nvec ≤ n.toNat → s.readV n = 0
  narrow : s.features.avx512f = false → s.maxvl = .w256

/-- The run has ended normally (R245). -/
def State.finished (s : State) : Bool := s.textOffset == s.textLen

end Machine

end Sys2Proof
end

