-- ==== Sys2Proof/Certificates/Slice0/Obligations.lean ====
section
/-! DEFINITION. The statements for the provers, by the files of spec/ they come from. -/

open Sys2Proof Sys2Proof.Machine

/-! ### 30_encoding.md -/

/-- R119, R122: decoding the encoding of a well-formed instruction gives it back, whatever bytes follow. -/
def Obligations.DecodeEncodeRoundTrip : Prop :=
  ∀ (i : Instr) (rest : List Byte), i.wf = true → decode (encode i ++ rest) = .instr i rest

/-- R95, R110, R112, R114: whatever decodes is well-formed. -/
def Obligations.DecodedInstructionIsWellFormed : Prop :=
  ∀ (bytes rest : List Byte) (i : Instr), decode bytes = .instr i rest → i.wf = true

/-- R121: the decoder consumes exactly the instruction's length, 5 to 10 bytes for a VEX form and 6 to 11 for an EVEX
form (R81). -/
def Obligations.DecodeConsumesLength : Prop :=
  ∀ (bytes rest : List Byte) (i : Instr), decode bytes = .instr i rest →
    bytes.length = i.len + rest.length ∧ bytes.drop i.len = rest ∧
    (if i.form.vex then 5 ≤ i.len ∧ i.len ≤ 10 else 6 ≤ i.len ∧ i.len ≤ 11)

/-- Words written out from the layouts of R84 and R96 decode to the instruction they stand for, one per family. -/
def Obligations.SpecWordsDecode : Prop :=
  decode [0xC4, 0x42, 0x7D, 0x13, 0xFA] = .instr (.vexPs256 15 (.reg 10)) [] ∧
  decode [0x62, 0xE2, 0x7D, 0x2B, 0x13, 0x52, 0xFF] =
    .instr (.evexPs256 18 ⟨3, false⟩ (.mem (.base 2 (.disp8 0xFF)))) [] ∧
  decode [0x62, 0x06, 0x7D, 0x48, 0x13, 0xF5] = .instr (.psx512 30 ⟨0, false⟩ (.reg 29)) [] ∧
  decode [0x62, 0xF6, 0x7D, 0x18, 0x13, 0x03] = .instr (.psx128Bcst 0 ⟨0, false⟩ (.base 3 .none)) [] ∧
  decode [0x62, 0x02, 0x7D, 0x18, 0x13, 0xF5] = .instr (.evexPs512Sae 30 ⟨0, false⟩ 29) []

/-- R88, R89: a VEX encoding of this opcode with W = 1, or with stored vvvv not 1111b, raises #UD under the
launch premise, and nothing is written. -/
def Obligations.VexReservedFieldRaisesUd : Prop :=
  ∀ (s : State) (p1 p2 : Byte) (tail : List Byte),
    LaunchOk s → fetch s = .ok (0xC4 :: p1 :: p2 :: 0x13 :: tail) →
    p1.extractLsb' 0 5 = 2#5 → p2.extractLsb' 0 2 = 1#2 →
    (p2.extractLsb' 7 1 = 1#1 ∨ p2.extractLsb' 3 4 ≠ 15#4) →
    step s = .fault (.exception .ud s.pc s)

/-- R99, R100, R104: an EVEX encoding with a wrong fixed bit, and one of this opcode with W = 1, stored vvvv not 1111b
or stored V' not 1, raises #UD under the launch premise, and nothing is written. -/
def Obligations.EvexReservedFieldRaisesUd : Prop :=
  ∀ (s : State) (p0 p1 p2 opcode : Byte) (tail : List Byte),
    LaunchOk s → fetch s = .ok (0x62 :: p0 :: p1 :: p2 :: opcode :: tail) →
    (p0.extractLsb' 3 1 = 1#1 ∨ p1.extractLsb' 2 1 = 0#1 ∨
      ((p0.extractLsb' 0 3 = 2#3 ∨ p0.extractLsb' 0 3 = 6#3) ∧ p1.extractLsb' 0 2 = 1#2 ∧ opcode = 0x13 ∧
        (p1.extractLsb' 7 1 = 1#1 ∨ p1.extractLsb' 3 4 ≠ 15#4 ∨ p2.extractLsb' 3 1 = 0#1))) →
    step s = .fault (.exception .ud s.pc s)

/-- R101, R102 (d), R177: an EVEX encoding of this opcode with L'L = 11b that is not the sae encoding raises #UD under
the launch premise, and so does b = 1 with a memory source in map 2. -/
def Obligations.EvexLengthOrBroadcastRaisesUd : Prop :=
  ∀ (s : State) (p0 p1 p2 modrm : Byte) (tail : List Byte),
    LaunchOk s → fetch s = .ok (0x62 :: p0 :: p1 :: p2 :: 0x13 :: modrm :: tail) →
    (p0.extractLsb' 0 3 = 2#3 ∨ p0.extractLsb' 0 3 = 6#3) → p1.extractLsb' 0 2 = 1#2 →
    ((p2.extractLsb' 5 2 = 3#2 ∧ ¬ (modrm.extractLsb' 6 2 = 3#2 ∧ p2.extractLsb' 4 1 = 1#1)) ∨
      (p0.extractLsb' 0 3 = 2#3 ∧ modrm.extractLsb' 6 2 ≠ 3#2 ∧ p2.extractLsb' 4 1 = 1#1)) →
    step s = .fault (.exception .ud s.pc s)

/-- R124 (a) to (d): what the decoder refuses. A first byte other than C4H and 62H; another map, pp or opcode byte; and,
every other field being legal, z = 1 with aaa = 000b (without b, with sae, with broadcast in map 6), and the sae
encoding with L'L 01b or 11b. -/
def Obligations.RefusedEncodings : Prop :=
  (∀ (b : Byte) (tail : List Byte), b ≠ 0xC4 → b ≠ 0x62 → decode (b :: tail) = .refused (.firstByte b)) ∧
  (∀ (p1 p2 op : Byte) (tail : List Byte),
    (p1.extractLsb' 0 5 ≠ 2#5 ∨ p2.extractLsb' 0 2 ≠ 1#2 ∨ op ≠ 0x13) →
    decode (0xC4 :: p1 :: p2 :: op :: tail) = .refused .otherInstruction) ∧
  (∀ (p0 p1 p2 op : Byte) (tail : List Byte), p0.extractLsb' 3 1 = 0#1 → p1.extractLsb' 2 1 = 1#1 →
    ((p0.extractLsb' 0 3 ≠ 2#3 ∧ p0.extractLsb' 0 3 ≠ 6#3) ∨ p1.extractLsb' 0 2 ≠ 1#2 ∨ op ≠ 0x13) →
    decode (0x62 :: p0 :: p1 :: p2 :: op :: tail) = .refused .otherInstruction) ∧
  (∀ (p0 p2 modrm : Byte) (tail : List Byte), p0.extractLsb' 3 1 = 0#1 →
    (p0.extractLsb' 0 3 = 2#3 ∨ p0.extractLsb' 0 3 = 6#3) → p2.extractLsb' 3 1 = 1#1 →
    (p2.extractLsb' 7 1 = 1#1 → p2.extractLsb' 0 3 = 0#3 →
      ((p2.extractLsb' 4 1 = 0#1 ∧ p2.extractLsb' 5 2 ≠ 3#2) ∨
        (p2.extractLsb' 4 1 = 1#1 ∧ modrm.extractLsb' 6 2 = 3#2 ∧
          (p2.extractLsb' 5 2 = 0#2 ∨ p2.extractLsb' 5 2 = 2#2)) ∨
        (p2.extractLsb' 4 1 = 1#1 ∧ modrm.extractLsb' 6 2 ≠ 3#2 ∧ p0.extractLsb' 0 3 = 6#3 ∧
          p2.extractLsb' 5 2 ≠ 3#2)) →
      decode (0x62 :: p0 :: 0x7D :: p2 :: 0x13 :: modrm :: tail) = .refused .zeroingWithoutMask) ∧
    (modrm.extractLsb' 6 2 = 3#2 → p2.extractLsb' 4 1 = 1#1 → (p2.extractLsb' 5 2 = 1#2 ∨ p2.extractLsb' 5 2 = 3#2) →
      decode (0x62 :: p0 :: 0x7D :: p2 :: 0x13 :: modrm :: tail) = .refused .saeLength))

/-- R103, R195: with b = 1, ModRM.mod alone tells the sae form (VL = 512 for L'L 00b and 10b) from the broadcast form
(VL from L'L) in map 6. -/
def Obligations.ModSelectsSaeOrBroadcast : Prop :=
  ∀ (p0 p2 modrm : Byte) (tail rest : List Byte) (i : Instr),
    p0.extractLsb' 0 3 = 6#3 → p2.extractLsb' 4 1 = 1#1 →
    decode (0x62 :: p0 :: 0x7D :: p2 :: 0x13 :: modrm :: tail) = .instr i rest →
    (modrm.extractLsb' 6 2 = 3#2 → i.form = .psx512 ∧ i.suppresses = true ∧ i.broadcasts = false) ∧
    (modrm.extractLsb' 6 2 ≠ 3#2 → i.suppresses = false ∧ i.broadcasts = true ∧
      i.form.vl = 128 * 2 ^ (p2.extractLsb' 5 2).toNat)

/-- R103, R106, R119: in both maps the sae encoding decodes for L'L 00b and 10b alike, to the sae form with the
destination `~R' ~R reg`, the source `~X ~B r/m` and the mask fields, and consumes six bytes. -/
def Obligations.SaeEncodingDecodes : Prop :=
  ∀ (p0 p2 modrm : Byte) (tail : List Byte),
    p0.extractLsb' 3 1 = 0#1 → p2.extractLsb' 3 1 = 1#1 → p2.extractLsb' 4 1 = 1#1 → modrm.extractLsb' 6 2 = 3#2 →
    (p2.extractLsb' 5 2 = 0#2 ∨ p2.extractLsb' 5 2 = 2#2) →
    ¬ (p2.extractLsb' 7 1 = 1#1 ∧ p2.extractLsb' 0 3 = 0#3) →
    ∀ (d n : VReg) (k : Mask),
      d = ~~~(p0.extractLsb' 4 1) ++ ~~~(p0.extractLsb' 7 1) ++ modrm.extractLsb' 3 3 →
      n = ~~~(p0.extractLsb' 6 1) ++ ~~~(p0.extractLsb' 5 1) ++ modrm.extractLsb' 0 3 →
      k = ⟨p2.extractLsb' 0 3, p2.extractLsb' 7 1 == 1#1⟩ →
      (p0.extractLsb' 0 3 = 2#3 →
        decode (0x62 :: p0 :: 0x7D :: p2 :: 0x13 :: modrm :: tail) = .instr (.evexPs512Sae d k n) tail) ∧
      (p0.extractLsb' 0 3 = 6#3 →
        decode (0x62 :: p0 :: 0x7D :: p2 :: 0x13 :: modrm :: tail) = .instr (.psx512Sae d k n) tail)

/-! ### 40_convert_element.md -/

/-- R133, R136: a zero converts to the zero, an infinity to the infinity of its sign, without a flag. -/
def Obligations.ZeroAndInfinityConvert : Prop :=
  ∀ (cfg : List (Half × Single)) (h : Half), halfFrac h = 0#10 →
    (halfExp h = 0#5 → cvtH2s cfg h = (halfSign h ++ 0#31, ⟨false, false⟩)) ∧
    (halfExp h = 31#5 → cvtH2s cfg h = (halfSign h ++ 255#8 ++ 0#23, ⟨false, false⟩))

/-- R134: a normal keeps sign and fraction and has its exponent re-biased by 112, without a flag. -/
def Obligations.NormalRebiased : Prop :=
  (∀ (cfg : List (Half × Single)) (h : Half), 1 ≤ (halfExp h).toNat → (halfExp h).toNat ≤ 30 →
    (cvtH2s cfg h).1 = halfSign h ++ BitVec.ofNat 8 ((halfExp h).toNat + 112) ++ halfFrac h ++ 0#13 ∧
    113 ≤ (singleExp (cvtH2s cfg h).1).toNat ∧ (singleExp (cvtH2s cfg h).1).toNat ≤ 142 ∧
    (cvtH2s cfg h).2 = ⟨false, false⟩) ∧
  (cvtH2s [] 0x3C00).1 = 0x3F800000

/-- R135: a denormal is normalised about its most significant fraction bit `p`, and flags DE. -/
def Obligations.DenormalNormalised : Prop :=
  ∀ (cfg : List (Half × Single)) (h : Half), halfExp h = 0#5 → halfFrac h ≠ 0#10 →
    ∃ p, p ≤ 9 ∧ (halfFrac h).getLsbD p = true ∧ (∀ q, p < q → (halfFrac h).getLsbD q = false) ∧
      (cvtH2s cfg h).1 =
        halfSign h ++ BitVec.ofNat 8 (p + 103) ++ BitVec.ofNat 23 ((halfFrac h).toNat <<< (23 - p) % 2 ^ 23) ∧
      103 ≤ (singleExp (cvtH2s cfg h).1).toNat ∧ (singleExp (cvtH2s cfg h).1).toNat ≤ 112 ∧
      (cvtH2s cfg h).2 = ⟨false, true⟩

/-- R137, R138: the default result of a NaN keeps sign and payload with the quiet bit set; for every configuration
(log entry 12) the result of a NaN is a NaN of its sign; a signalling NaN is the one input that flags IE, and no NaN
flags DE. -/
def Obligations.NaNQuieted : Prop :=
  (∀ h : Half, isHalfNaN h = true →
    (cvtH2s [] h).1 = halfSign h ++ 255#8 ++ 1#1 ++ h.extractLsb' 0 9 ++ 0#13 ∧
    ((cvtH2s [] h).1).getLsbD 22 = true) ∧
  (∀ (cfg : List (Half × Single)) (h : Half), isHalfNaN h = true →
    isSingleNaN (cvtH2s cfg h).1 = true ∧ singleSign (cvtH2s cfg h).1 = halfSign h) ∧
  (∀ (cfg : List (Half × Single)) (h : Half), (cvtH2s cfg h).2.ie = true ↔
    halfExp h = 31#5 ∧ halfFrac h ≠ 0#10 ∧ (halfFrac h).getLsbD 9 = false) ∧
  (∀ (cfg : List (Half × Single)) (h : Half), isHalfNaN h = true → (cvtH2s cfg h).2.de = false)

/-- R139, and for the NaNs D14 and U11 (log entry 12): the sign bit is copied, for every input under every `cvt_nan`. -/
def Obligations.SignCopied : Prop :=
  ∀ (cfg : List (Half × Single)) (h : Half), ((cvtH2s cfg h).1).getLsbD 31 = h.getLsbD 15

/-- R140: the FP32 result of every finite FP16 value is the same number, and is finite. -/
def Obligations.ConversionIsExact : Prop :=
  ∀ (cfg : List (Half × Single)) (h : Half), halfExp h ≠ 31#5 →
    singleExp (cvtH2s cfg h).1 ≠ 255#8 ∧ singleValue (cvtH2s cfg h).1 = halfValue h

/-- R140: two inputs that are no NaN and convert to the same pattern are the same input. -/
def Obligations.ConversionInjectiveOffNaN : Prop :=
  ∀ (cfg : List (Half × Single)) (a b : Half), isHalfNaN a = false → isHalfNaN b = false →
    (cvtH2s cfg a).1 = (cvtH2s cfg b).1 → a = b

/-- R140, R132: no result has exponent 0 and a non-zero fraction. -/
def Obligations.NoDenormalResult : Prop :=
  ∀ (cfg : List (Half × Single)) (h : Half), singleExp (cvtH2s cfg h).1 = 0#8 → singleFrac (cvtH2s cfg h).1 = 0#23

/-! ### 41, 42, 43: every instruction runs, and what it leaves -/

/-- R161, R162: the VEX forms run, register and memory source. -/
def Obligations.VexFormsRun : Prop :=
  ∀ (d : VReg) (src : RegMem) (s : State), Runs (.vexPs128 d src) s ∧ Runs (.vexPs256 d src) s

/-- R172 to R175: the EVEX forms of VCVTPH2PS run, register and memory source. Completion of a memory form
with alignment checking on and an operand aligned to its own size is the model's reading (`Readable`, log entry 11). -/
def Obligations.EvexPsFormsRun : Prop :=
  ∀ (d : VReg) (k : Mask) (src : RegMem) (s : State),
    Runs (.evexPs128 d k src) s ∧ Runs (.evexPs256 d k src) s ∧ Runs (.evexPs512 d k src) s

/-- R188 to R190: VCVTPH2PSX runs, register and full-memory source. Completion of a memory form
with alignment checking on and an operand aligned to its own size is the model's reading (`Readable`, log entry 11). -/
def Obligations.PsxFormsRun : Prop :=
  ∀ (d : VReg) (k : Mask) (src : RegMem) (s : State),
    Runs (.psx128 d k src) s ∧ Runs (.psx256 d k src) s ∧ Runs (.psx512 d k src) s

/-- R191 to R193: the broadcast forms run. Completion of a memory form
with alignment checking on and an operand aligned to its own size is the model's reading (`Readable`, log entry 11). -/
def Obligations.PsxBroadcastFormsRun : Prop :=
  ∀ (d : VReg) (k : Mask) (m : MemOp) (s : State),
    Runs (.psx128Bcst d k m) s ∧ Runs (.psx256Bcst d k m) s ∧ Runs (.psx512Bcst d k m) s

/-- R176, R194, R148: the sae forms run whatever the elements and the MXCSR masks are, and leave MXCSR as it was. -/
def Obligations.SaeFormsRun : Prop :=
  ∀ (d n : VReg) (k : Mask) (s : State) (i : Instr), (i = .evexPs512Sae d k n ∨ i = .psx512Sae d k n) →
    Ready i s → ∃ t, exec i s = .next t ∧ Completed i s t ∧ t.mxcsr = s.mxcsr

/-- R145: with IM and DM set the masked response is the only one: every form whose operand can be read completes.
For an EVEX memory form with alignment checking on and an operand aligned to its own size this is the model's reading
(`Readable`, log entry 11). -/
def Obligations.MaskedResponseCompletes : Prop :=
  ∀ (i : Instr) (s : State), Ready i s → Readable i s → mxcsrIM s.mxcsr = true → mxcsrDM s.mxcsr = true →
    ∃ t, exec i s = .next t ∧ Completed i s t

/-- R143, R172: with no lane active nothing is signalled: the form completes whatever its elements are, MXCSR stays, the
lanes are kept or zeroed, and the bits from VL up become 0. For a memory form with alignment checking on and an operand
aligned to its own size completion is the model's reading (`Readable`, log entry 11). -/
def Obligations.NoActiveLaneSignalsNothing : Prop :=
  ∀ (i : Instr) (s : State), Ready i s → Readable i s → (∀ j, j < i.form.kl → i.active s j = false) →
    ∃ t, exec i s = .next t ∧ t.mxcsr = s.mxcsr ∧
      (∀ j, j < i.form.kl → lane (t.readV i.dest) j = if i.zeroes then 0 else lane (s.readV i.dest) j) ∧
      ∀ b, i.form.vl ≤ b → (t.readV i.dest).getLsbD b = false

/-- R178: without a writemask, forms 3 and 4 leave what forms 1 and 2 leave, but for `pc`. -/
def Obligations.UnmaskedEvexEqualsVex : Prop :=
  ∀ (d n : VReg) (z : Bool) (s t : State),
    (Ready (.vexPs128 d (.reg n)) s → exec (.evexPs128 d ⟨0, z⟩ (.reg n)) s = .next t →
      exec (.vexPs128 d (.reg n)) s = .next { t with pc := s.pc + 5 }) ∧
    (Ready (.vexPs256 d (.reg n)) s → exec (.evexPs256 d ⟨0, z⟩ (.reg n)) s = .next t →
      exec (.vexPs256 d (.reg n)) s = .next { t with pc := s.pc + 5 })

/-- R196: where VCVTPH2PSX completes, the EVEX form of VCVTPH2PS of the same VL and operands leaves the same state but
for MXCSR.DE. For a misaligned memory operand with alignment checking on this rests on the model's choice that Type E11
and Type E2 answer alike on #AC (log entry 11). -/
def Obligations.PsxMatchesPs : Prop :=
  ∀ (d : VReg) (k : Mask) (src : RegMem) (s t : State),
    ∀ p ∈ [(Instr.psx128 d k src, Instr.evexPs128 d k src), (Instr.psx256 d k src, Instr.evexPs256 d k src),
        (Instr.psx512 d k src, Instr.evexPs512 d k src)],
      Ready p.2 s → exec p.1 s = .next t →
      ∃ m, exec p.2 s = .next { t with mxcsr := m } ∧ m.getLsbD 1 = s.mxcsr.getLsbD 1 ∧
        ∀ b, b ≠ 1 → m.getLsbD b = t.mxcsr.getLsbD b

/-- R176, R194: the sae forms leave what the plain 512-bit forms leave for the same register source, but for MXCSR. -/
def Obligations.SaeMatchesPlain : Prop :=
  ∀ (d n : VReg) (k : Mask) (s t : State),
    (exec (.evexPs512 d k (.reg n)) s = .next t →
      exec (.evexPs512Sae d k n) s = .next { t with mxcsr := s.mxcsr }) ∧
    (exec (.psx512 d k (.reg n)) s = .next t →
      exec (.psx512Sae d k n) s = .next { t with mxcsr := s.mxcsr })

/-! ### 10_state.md -/

/-- R28, R29: DAZ, RC and FTZ have no effect: with any of those bits flipped, a form that completes still completes,
with the same state but for those bits. -/
def Obligations.DazRcFtzIgnored : Prop :=
  ∀ (i : Instr) (s t : State) (x : BitVec 32), (∀ b, b ≠ 6 → b ≠ 13 → b ≠ 14 → b ≠ 15 → x.getLsbD b = false) →
    exec i s = .next t →
    exec i (s.withMxcsr (s.mxcsr ^^^ x)) = .next (t.withMxcsr (t.mxcsr ^^^ x))

/-- R25, R108: of the opmask registers only bits `[KL-1:0]` of the selected one are read, `K[0]` never as a mask, and none
is written. -/
def Obligations.MaskBitsAboveKlIgnored : Prop :=
  ∀ (i : Instr) (s t : State) (k : Vector (BitVec 64) 8),
    (∀ m, i.mask = some m → m.aaa ≠ 0#3 → ∀ j, j < i.form.kl →
      ({ s with k := k }.readK m.aaa).getLsbD j = (s.readK m.aaa).getLsbD j) →
    exec i s = .next t → exec i { s with k := k } = .next { t with k := k }

/-- R22: of a register source other than the destination only the bits below `16*KL` are read. -/
def Obligations.SourceBitsAboveIgnored : Prop :=
  ∀ (i : Instr) (s t : State) (n : VReg) (x : VecWord), i.source = .reg n → n ≠ i.dest →
    (∀ b, b < 16 * i.form.kl → x.getLsbD b = (s.readV n).getLsbD b) →
    exec i s = .next t → exec i (s.writeV n x) = .next (t.writeV n x)

/-- R38, R230: a step that answers a next state has run an instruction, and has changed only its destination register,
`pc`, and MXCSR.IE and DE, which it may only set: no other vector register, opmask or general register, flag, control
register or byte of memory. -/
def Obligations.StepFrame : Prop :=
  ∀ s t : State, step s = .next t →
    ∃ (bytes rest : List Byte) (i : Instr), fetch s = .ok bytes ∧ decode bytes = .instr i rest ∧
      (∀ n, n ≠ i.dest → t.readV n = s.readV n) ∧ RestUnchanged s t ∧
      (∀ b, s.mxcsr.getLsbD b = true → t.mxcsr.getLsbD b = true) ∧
      ∀ b, 2 ≤ b → t.mxcsr.getLsbD b = s.mxcsr.getLsbD b

/-- Log entries 2 and 7: memory stays in its canonical form, and with R20, R23, R26 and R244 every vector register within
`MAXVL`, the registers that do not exist zero, the reserved bits of MXCSR zero, and the program text within the address
space, over every step. That an instruction cannot write a register that does not exist is log entry 25. -/
def Obligations.StepKeepsInvariant : Prop := ∀ s t : State, s.Inv → step s = .next t → t.Inv

/-- The invariant of the model holds at reset. -/
def Obligations.ResetMeetsInvariant : Prop := State.reset.Inv

/-- R241: after reset the processor is in real-address mode with CR4.OSXSAVE = 0, and every form raises #UD. The bytes of
an instruction are another matter: a step refuses them in this mode (log entries 13 and 14). -/
def Obligations.ResetRaisesUd : Prop :=
  State.reset.mode = .realAddress ∧ State.reset.osxsave = false ∧
  ∀ i : Instr, exec i State.reset = .fault (.exception .ud State.reset.pc State.reset)

/-- R39: the reset values the spec states. Of RDX it says only that it holds a processor signature. -/
def Obligations.ResetValues : Prop :=
  (∀ n : VReg, State.reset.readV n = 0) ∧ (∀ n : BitVec 3, State.reset.readK n = 0) ∧
  (∀ n : GReg, n ≠ 2 → State.reset.readG n = 0) ∧ State.reset.mxcsr = 0x1F80 ∧ State.reset.ts = false ∧
  State.reset.osxsave = false ∧ State.reset.osxmmexcpt = false ∧ State.reset.xcr0 = 1

/-! ### 20_memory.md -/

/-- R50, R13: byte `i` of what a read returns is the byte at `a + i`, and nothing stands above the bytes read. -/
def Obligations.ReadIsLittleEndian : Prop :=
  ∀ (s : State) (a : Word) (n i : Nat), n ≤ 32 →
    (i < n → (s.memRead a n).extractLsb' (8 * i) 8 = s.readByte (a + BitVec.ofNat 64 i)) ∧
    (n ≤ i → (s.memRead a n).extractLsb' (8 * i) 8 = 0#8)

/-- R52, R57, R36: only the bytes of the memory operand are read, `2*KL` of them or 2 under broadcast, and none for a
register source: with any other byte of memory changed, a form that completes completes with the same state but for
that memory. -/
def Obligations.MemoryOutsideOperandIgnored : Prop :=
  ∀ (i : Instr) (s t : State) (mem : Memory),
    (∀ m, i.source = .mem m → ∀ j, j < i.readBytes →
      { s with mem := mem }.readByte (i.address s m + BitVec.ofNat 64 j) =
        s.readByte (i.address s m + BitVec.ofNat 64 j)) →
    exec i s = .next t → exec i { s with mem := mem } = .next { t with mem := mem }

/-- R113 to R117, R94: the address of a memory operand: base, scaled index and displacement added modulo 2^64, index
number 0100b no index, RIP-relative from the next instruction, an 8-bit displacement scaled by 1 for a VEX form and by
the operand's byte count for an EVEX form. -/
def Obligations.MemoryOperandAddress : Prop :=
  ∀ (i : Instr) (s : State),
    (∀ (n : Nat), n = (if i.form.vex then 1 else i.readBytes) →
      (∀ (b : GReg), i.address s (.base b .none) = s.readG b) ∧
      (∀ (b : GReg) (d : BitVec 8),
        i.address s (.base b (.disp8 d)) = s.readG b + d.signExtend 64 * BitVec.ofNat 64 n) ∧
      (∀ (b : GReg) (d : BitVec 32), i.address s (.base b (.disp32 d)) = s.readG b + d.signExtend 64) ∧
      (∀ (b x : GReg) (sc : BitVec 2) (d : BitVec 8), x ≠ 4 →
        i.address s (.sib b x sc (.disp8 d)) =
          s.readG b + s.readG x * BitVec.ofNat 64 (2 ^ sc.toNat) + d.signExtend 64 * BitVec.ofNat 64 n) ∧
      (∀ (b : GReg) (sc : BitVec 2) (d : BitVec 8),
        i.address s (.sib b 4 sc (.disp8 d)) = s.readG b + d.signExtend 64 * BitVec.ofNat 64 n)) ∧
    (∀ (b x : GReg) (sc : BitVec 2), x ≠ 4 →
      i.address s (.sib b x sc .none) = s.readG b + s.readG x * BitVec.ofNat 64 (2 ^ sc.toNat)) ∧
    (∀ (b x : GReg) (sc : BitVec 2) (d : BitVec 32), x ≠ 4 →
      i.address s (.sib b x sc (.disp32 d)) =
        s.readG b + s.readG x * BitVec.ofNat 64 (2 ^ sc.toNat) + d.signExtend 64) ∧
    (∀ (b : GReg) (sc : BitVec 2), i.address s (.sib b 4 sc .none) = s.readG b) ∧
    (∀ (b : GReg) (sc : BitVec 2) (d : BitVec 32), i.address s (.sib b 4 sc (.disp32 d)) = s.readG b + d.signExtend 64) ∧
    (∀ (x : GReg) (sc : BitVec 2) (d : BitVec 32), x ≠ 4 →
      i.address s (.sibNoBase x sc d) = s.readG x * BitVec.ofNat 64 (2 ^ sc.toNat) + d.signExtend 64) ∧
    (∀ (sc : BitVec 2) (d : BitVec 32), i.address s (.sibNoBase 4 sc d) = d.signExtend 64) ∧
    ∀ (d : BitVec 32), i.address s (.ripRel d) = s.pc + BitVec.ofNat 64 i.len + d.signExtend 64

/-- The model's memory (log entry 7): in a canonical memory a byte stored is read back, and every other byte reads as
before. -/
def Obligations.ReadAfterWrite : Prop :=
  ∀ (s : State) (a c : Word) (b : Byte), s.mem.wf = true →
    (s.writeByte a b).readByte a = b ∧ (c ≠ a → (s.writeByte a b).readByte c = s.readByte c) ∧
    (s.writeByte a b).mem.wf = true

/-- R59, R209: in 64-bit mode a memory operand with a non-canonical byte, or one that wraps, raises #GP(0), or #SS(0)
where the base register is RSP or RBP; no flag is set and nothing is written. That this is so for the bytes of masked-off
lanes too, whose faults the chip suppresses (R56), is the spec's decision for its model (R66, D8, log entry 16). -/
def Obligations.NonCanonicalOperandFaults : Prop :=
  ∀ (i : Instr) (s : State) (m : MemOp), Ready i s → i.source = .mem m →
    (2 ^ 64 < (i.address s m).toNat + i.readBytes ∨
      ∃ j, j < i.readBytes ∧ canonical s.la57 (i.address s m + BitVec.ofNat 64 j) = false) →
    exec i s = .fault (.exception (if stackBase m then .ss else .gp) s.pc s)

/-- R66, R210, R215: a canonical memory operand with a byte whose read paging refuses raises #PF with the code of the
first such byte, whatever its elements and the writemask are; the exception carries that byte's address (log entry 8),
no flag is set and nothing is written. That this is so for the bytes of masked-off lanes too, whose faults the chip
suppresses (R56), is the spec's decision for its model (R66, D8, log entry 16). -/
def Obligations.PageFaultBeforeFlags : Prop :=
  ∀ (i : Instr) (s : State) (m : MemOp) (j : Nat) (code : BitVec 32), Ready i s → i.source = .mem m →
    canonicalOperand s.la57 (i.address s m) i.readBytes = true → j < i.readBytes →
    regionAt s.regions (i.address s m + BitVec.ofNat 64 j) = some (.pageFault code) →
    (∀ l, l < j → ∀ c, regionAt s.regions (i.address s m + BitVec.ofNat 64 l) ≠ some (.pageFault c)) →
    exec i s = .fault (.exception (.pf code (i.address s m + BitVec.ofNat 64 j)) s.pc s)

/-- R58 (log entries 9, 16 and 24): a canonical memory operand that meets no page fault and no alignment check and touches
a device is refused by name. -/
def Obligations.DeviceOperandRefused : Prop :=
  ∀ (i : Instr) (s : State) (m : MemOp) (j : Nat), Ready i s → i.source = .mem m →
    canonicalOperand s.la57 (i.address s m) i.readBytes = true → s.alignmentChecking = false → j < i.readBytes →
    regionAt s.regions (i.address s m + BitVec.ofNat 64 j) = some .device →
    (∀ l, l < i.readBytes → ∀ c, regionAt s.regions (i.address s m + BitVec.ofNat 64 l) ≠ some (.pageFault c)) →
    ∃ a, exec i s = .refused (.deviceOperand a)

/-! ### 60_exceptions.md -/

/-- R204 (a) to (c), R120, R119: in real-address and virtual-8086 mode, and in 64-bit mode without CR4.OSXSAVE, the XCR0
bits of the form, its CPUID flags or a `MAXVL` that holds its VL, every form raises #UD and nothing is written. A step
refuses a launch that R34 excludes before it comes to the form (log entry 13). By the model's own reading a register that
a form names and that does not exist is #UD too (R23, log entry 25). -/
def Obligations.DisabledFormRaisesUd : Prop :=
  ∀ (i : Instr) (s : State),
    (s.mode = .realAddress ∨ s.mode = .virtual8086 ∨
      (s.mode = .mode64 ∧ (s.osxsave = false ∨ s.xcr0Enables i.form.vex = false ∨
        i.form.available s.features = false ∨ s.maxvl.bits < i.form.vl ∨
        registersExist s.features i.dest i.source = false))) →
    exec i s = .fault (.exception .ud s.pc s)

/-- R23: on a processor without AVX512F 16 registers exist, else 32; a register exists if its number is below that, and a
memory source names none. -/
def Obligations.RegistersThatExist : Prop :=
  ∀ (c : Features) (d n : VReg) (m : MemOp),
    (registersExist c d (.reg n) = true ↔
      d.toNat < (if c.avx512f then 32 else 16) ∧ n.toNat < (if c.avx512f then 32 else 16)) ∧
    (registersExist c d (.mem m) = true ↔ d.toNat < (if c.avx512f then 32 else 16))

/-- R7, R124 (e): in 32-bit protected, compatibility and system-management mode the meaning of every form is a refusal
that names the mode. No rule gives an outcome for the form by itself there; that is the model's reading (log entry 14). -/
def Obligations.OtherModesRefused : Prop :=
  ∀ (i : Instr) (s : State),
    (s.mode = .protected32 ∨ s.mode = .compatibility ∨ s.mode = .systemManagement) →
    exec i s = .refused (.modeOutOfScope s.mode)

/-- R205, R215: a form that no #UD stops raises #NM if CR0.TS = 1, before its operand is touched. That is
the form by itself (log entry 13): no run raises #NM, since a step refuses the launch (R34, R205). -/
def Obligations.TaskSwitchedRaisesNm : Prop :=
  ∀ (i : Instr) (s : State), s.mode = .mode64 → s.osxsave = true → s.xcr0Enables i.form.vex = true →
    i.form.available s.features = true → i.form.vl ≤ s.maxvl.bits → registersExist s.features i.dest i.source = true →
    s.ts = true → exec i s = .fault (.exception .nm s.pc s)

/-- R34, R205, R211: under the launch premise `env_ok` no form raises #NM or #AC, and #UD only because the processor lacks
a feature of the form, a `MAXVL` that holds its VL, or a register it names; and only a device operand is refused. -/
def Obligations.EnvOkRulesOut : Prop :=
  ∀ (i : Instr) (s : State), EnvOk i.form s →
    (∀ (x : Exception) (pc : Word) (after : State), exec i s = .fault (.exception x pc after) →
      x ≠ .nm ∧ x ≠ .ac ∧
      (x = .ud → i.form.available s.features = false ∨ s.maxvl.bits < i.form.vl ∨
        registersExist s.features i.dest i.source = false)) ∧
    ∀ r, exec i s = .refused r → ∃ a, r = .deviceOperand a

/-- R146, R147, R212: an unmasked detected exception raises #XM, or #UD if CR4.OSXMMEXCPT = 0, with `pc` in place, every
detected flag set and nothing else changed. The case CR4.OSXMMEXCPT = 0 is the form by itself, since a step refuses such
a launch (R34, log entry 13); that an EVEX memory form with alignment checking on reads an operand aligned to its own size
is log entry 11. -/
def Obligations.UnmaskedExceptionRaisesXm : Prop :=
  ∀ (i : Instr) (s : State), Ready i s → Readable i s → Trapping i s →
    ∃ m, FlagsSet i s m ∧
      exec i s = .fault (.exception (if s.osxmmexcpt then .xm else .ud) s.pc { s with mxcsr := m })

/-- R206, R211: no VEX form raises #AC, and no form does while alignment checking is off. -/
def Obligations.AlignmentCheckNeverRaised : Prop :=
  ∀ (i : Instr) (s after : State) (pc : Word), (i.form.vex = true ∨ s.alignmentChecking = false) →
    exec i s ≠ .fault (.exception .ac pc after)

/-- R38, R219: a fault saves the address of the instruction and leaves everything as it was, but for IE and DE of MXCSR
in the SIMD floating-point case (#XM, or #UD in its place), which it may only set. -/
def Obligations.FaultLeavesState : Prop :=
  ∀ (i : Instr) (s after : State) (x : Exception) (pc : Word), exec i s = .fault (.exception x pc after) →
    pc = s.pc ∧ after = { s with mxcsr := after.mxcsr } ∧ (x ≠ .xm → x ≠ .ud → after = s) ∧
    (∀ b, s.mxcsr.getLsbD b = true → after.mxcsr.getLsbD b = true) ∧
    ∀ b, 2 ≤ b → after.mxcsr.getLsbD b = s.mxcsr.getLsbD b

/-- R124 (e), R58: the meaning of an instruction by itself is refused for the mode the processor is in, or for a byte of
its memory operand that lies in a device, and for nothing else (log entries 9 and 14). A step can also refuse a decoded
instruction because the launch premise fails (`StepRefusesBrokenLaunch`, log entry 18). -/
def Obligations.OnlyModeAndDeviceRefused : Prop :=
  ∀ (i : Instr) (s : State) (r : Refusal), exec i s = .refused r →
    (∃ m, r = .modeOutOfScope m ∧ s.mode = m) ∨
    ∃ (m : MemOp) (j : Nat), i.source = .mem m ∧ j < i.readBytes ∧
      r = .deviceOperand (i.address s m + BitVec.ofNat 64 j) ∧
      regionAt s.regions (i.address s m + BitVec.ofNat 64 j) = some .device

/-! ### 00_scope.md, 70_reset_and_hazards.md: the step -/

/-- R18, R63: under the launch premise, where the bytes at `pc` decode to an instruction, a step is what `exec` does with
it. -/
def Obligations.StepRunsDecoded : Prop :=
  ∀ (s : State) (bytes rest : List Byte) (i : Instr), LaunchOk s → fetch s = .ok bytes →
    decode bytes = .instr i rest → s.xcr0Enables i.form.vex = true → step s = exec i s

/-- R7, R8, R124 (e): in every mode but 64-bit mode a step refuses the bytes at `pc`, whatever they are, and names the
mode. -/
def Obligations.StepRefusesOtherModes : Prop :=
  ∀ (s : State) (bytes : List Byte), s.mode ≠ .mode64 → fetch s = .ok bytes →
    step s = .refused (.modeOutOfScope s.mode)

/-- R34, R244, D27, U17, U18: in 64-bit mode a launch that the common premise fails for is refused, and the refusal names
a part that fails; and one without the XCR0 bits of a form is refused where it comes to that form. That each step asks is
the model's way to refuse a launch (log entry 18). -/
def Obligations.StepRefusesBrokenLaunch : Prop :=
  ∀ (s : State) (bytes : List Byte), s.mode = .mode64 → fetch s = .ok bytes →
    (¬ LaunchOk s → ∃ p : Premise, p.holds s = false ∧ step s = .refused (.launchRefused p)) ∧
    (LaunchOk s → ∀ (i : Instr) (rest : List Byte), decode bytes = .instr i rest → s.xcr0Enables i.form.vex = false →
      step s = .refused (.launchRefused (.xcr0 i.form.vex)))

/-- R34, R244, D27: a step that answers a next state ran an instruction under the whole launch premise, which is a constant
of the run: the state it leads to meets it too (log entry 18). -/
def Obligations.StepMeetsLaunchPremise : Prop :=
  ∀ s t : State, step s = .next t → LaunchOk s ∧ LaunchOk t ∧
    ∃ (bytes rest : List Byte) (i : Instr), fetch s = .ok bytes ∧ decode bytes = .instr i rest ∧
      exec i s = .next t ∧ EnvOk i.form s ∧ EnvOk i.form t

/-- R31: a step that answers a next state has run an instruction that the bytes at `pc` decode to, and `pc` is past it,
modulo 2^64. -/
def Obligations.StepAdvancesPc : Prop :=
  ∀ s t : State, step s = .next t →
    ∃ (bytes rest : List Byte) (i : Instr), fetch s = .ok bytes ∧ decode bytes = .instr i rest ∧
      t.pc = s.pc + BitVec.ofNat 64 i.len

/-- R245 (the model's choice of outcome, log entry 10): at the address after the last byte of the program text the run
has ended, and the step says so by name; and a step runs nothing outside the text. -/
def Obligations.RunEndsAtEndOfText : Prop :=
  ∀ s : State, (s.finished = true → step s = .refused .endOfText) ∧
    (s.textLen < s.textOffset → step s = .refused .outsideText)

/-- R63 (log entry 1): a text of one instruction's length or less placed at `pc` is what the next fetch reads. -/
def Obligations.PlacedTextIsFetched : Prop :=
  ∀ (s : State) (bytes : List Byte), s.mem.wf = true → 0 < bytes.length → bytes.length ≤ maxInstrLen →
    fetch (s.withText bytes) = .ok bytes

/-- R34, R242, R244 (log entry 1): launched from reset with a word as its text, the machine meets the launch premise, is
ready for every instruction, and fetches that word. That every feature is reported and `MAXVL` is 512 after reset is the model's
choice (log entry 3). -/
def Obligations.LaunchFromResetIsReady : Prop :=
  ∀ (i : Instr) (nbits w : Nat),
    LaunchOk (State.reset.withFetchWord nbits w) ∧ EnvOk i.form (State.reset.withFetchWord nbits w) ∧ Ready i (State.reset.withFetchWord nbits w) ∧
    fetch (State.reset.withFetchWord nbits w) = .ok (tableBytes nbits w)
end

