-- ==== Sys2Proof/Laws/State.lean ====
section
/-! SUPPORT. The small lemmas of the state record: one per field for each named update, and what the register and
memory accessors read after one. -/

namespace Sys2Proof.Machine

open Sys2Proof

/-! ### `writeV` -/

@[simp] theorem State.writeV_v (s : State) (n : VReg) (x : VecWord) : (s.writeV n x).v = s.v.set n.toNat x n.isLt := rfl
@[simp] theorem State.writeV_k (s : State) (n : VReg) (x : VecWord) : (s.writeV n x).k = s.k := rfl
@[simp] theorem State.writeV_g (s : State) (n : VReg) (x : VecWord) : (s.writeV n x).g = s.g := rfl
@[simp] theorem State.writeV_pc (s : State) (n : VReg) (x : VecWord) : (s.writeV n x).pc = s.pc := rfl
@[simp] theorem State.writeV_rflags (s : State) (n : VReg) (x : VecWord) : (s.writeV n x).rflags = s.rflags := rfl
@[simp] theorem State.writeV_mxcsr (s : State) (n : VReg) (x : VecWord) : (s.writeV n x).mxcsr = s.mxcsr := rfl
@[simp] theorem State.writeV_cr0 (s : State) (n : VReg) (x : VecWord) : (s.writeV n x).cr0 = s.cr0 := rfl
@[simp] theorem State.writeV_cr2 (s : State) (n : VReg) (x : VecWord) : (s.writeV n x).cr2 = s.cr2 := rfl
@[simp] theorem State.writeV_cr4 (s : State) (n : VReg) (x : VecWord) : (s.writeV n x).cr4 = s.cr4 := rfl
@[simp] theorem State.writeV_xcr0 (s : State) (n : VReg) (x : VecWord) : (s.writeV n x).xcr0 = s.xcr0 := rfl
@[simp] theorem State.writeV_efer (s : State) (n : VReg) (x : VecWord) : (s.writeV n x).efer = s.efer := rfl
@[simp] theorem State.writeV_csL (s : State) (n : VReg) (x : VecWord) : (s.writeV n x).csL = s.csL := rfl
@[simp] theorem State.writeV_cpl (s : State) (n : VReg) (x : VecWord) : (s.writeV n x).cpl = s.cpl := rfl
@[simp] theorem State.writeV_smm (s : State) (n : VReg) (x : VecWord) : (s.writeV n x).smm = s.smm := rfl
@[simp] theorem State.writeV_mem (s : State) (n : VReg) (x : VecWord) : (s.writeV n x).mem = s.mem := rfl
@[simp] theorem State.writeV_regions (s : State) (n : VReg) (x : VecWord) : (s.writeV n x).regions = s.regions := rfl
@[simp] theorem State.writeV_textBase (s : State) (n : VReg) (x : VecWord) : (s.writeV n x).textBase = s.textBase := rfl
@[simp] theorem State.writeV_textLen (s : State) (n : VReg) (x : VecWord) : (s.writeV n x).textLen = s.textLen := rfl
@[simp] theorem State.writeV_maxvl (s : State) (n : VReg) (x : VecWord) : (s.writeV n x).maxvl = s.maxvl := rfl
@[simp] theorem State.writeV_features (s : State) (n : VReg) (x : VecWord) : (s.writeV n x).features = s.features := rfl
@[simp] theorem State.writeV_cvtNan (s : State) (n : VReg) (x : VecWord) : (s.writeV n x).cvtNan = s.cvtNan := rfl

/-! ### `writeByte` -/

@[simp] theorem State.writeByte_v (s : State) (a : Word) (b : Byte) : (s.writeByte a b).v = s.v := rfl
@[simp] theorem State.writeByte_k (s : State) (a : Word) (b : Byte) : (s.writeByte a b).k = s.k := rfl
@[simp] theorem State.writeByte_g (s : State) (a : Word) (b : Byte) : (s.writeByte a b).g = s.g := rfl
@[simp] theorem State.writeByte_pc (s : State) (a : Word) (b : Byte) : (s.writeByte a b).pc = s.pc := rfl
@[simp] theorem State.writeByte_rflags (s : State) (a : Word) (b : Byte) : (s.writeByte a b).rflags = s.rflags := rfl
@[simp] theorem State.writeByte_mxcsr (s : State) (a : Word) (b : Byte) : (s.writeByte a b).mxcsr = s.mxcsr := rfl
@[simp] theorem State.writeByte_cr0 (s : State) (a : Word) (b : Byte) : (s.writeByte a b).cr0 = s.cr0 := rfl
@[simp] theorem State.writeByte_cr2 (s : State) (a : Word) (b : Byte) : (s.writeByte a b).cr2 = s.cr2 := rfl
@[simp] theorem State.writeByte_cr4 (s : State) (a : Word) (b : Byte) : (s.writeByte a b).cr4 = s.cr4 := rfl
@[simp] theorem State.writeByte_xcr0 (s : State) (a : Word) (b : Byte) : (s.writeByte a b).xcr0 = s.xcr0 := rfl
@[simp] theorem State.writeByte_efer (s : State) (a : Word) (b : Byte) : (s.writeByte a b).efer = s.efer := rfl
@[simp] theorem State.writeByte_csL (s : State) (a : Word) (b : Byte) : (s.writeByte a b).csL = s.csL := rfl
@[simp] theorem State.writeByte_cpl (s : State) (a : Word) (b : Byte) : (s.writeByte a b).cpl = s.cpl := rfl
@[simp] theorem State.writeByte_smm (s : State) (a : Word) (b : Byte) : (s.writeByte a b).smm = s.smm := rfl
@[simp] theorem State.writeByte_mem (s : State) (a : Word) (b : Byte) : (s.writeByte a b).mem = s.mem.write a.toNat b := rfl
@[simp] theorem State.writeByte_regions (s : State) (a : Word) (b : Byte) : (s.writeByte a b).regions = s.regions := rfl
@[simp] theorem State.writeByte_textBase (s : State) (a : Word) (b : Byte) : (s.writeByte a b).textBase = s.textBase := rfl
@[simp] theorem State.writeByte_textLen (s : State) (a : Word) (b : Byte) : (s.writeByte a b).textLen = s.textLen := rfl
@[simp] theorem State.writeByte_maxvl (s : State) (a : Word) (b : Byte) : (s.writeByte a b).maxvl = s.maxvl := rfl
@[simp] theorem State.writeByte_features (s : State) (a : Word) (b : Byte) : (s.writeByte a b).features = s.features := rfl
@[simp] theorem State.writeByte_cvtNan (s : State) (a : Word) (b : Byte) : (s.writeByte a b).cvtNan = s.cvtNan := rfl

/-! ### `withMxcsr` -/

@[simp] theorem State.withMxcsr_v (s : State) (m : BitVec 32) : (s.withMxcsr m).v = s.v := rfl
@[simp] theorem State.withMxcsr_k (s : State) (m : BitVec 32) : (s.withMxcsr m).k = s.k := rfl
@[simp] theorem State.withMxcsr_g (s : State) (m : BitVec 32) : (s.withMxcsr m).g = s.g := rfl
@[simp] theorem State.withMxcsr_pc (s : State) (m : BitVec 32) : (s.withMxcsr m).pc = s.pc := rfl
@[simp] theorem State.withMxcsr_rflags (s : State) (m : BitVec 32) : (s.withMxcsr m).rflags = s.rflags := rfl
@[simp] theorem State.withMxcsr_mxcsr (s : State) (m : BitVec 32) : (s.withMxcsr m).mxcsr = m := rfl
@[simp] theorem State.withMxcsr_cr0 (s : State) (m : BitVec 32) : (s.withMxcsr m).cr0 = s.cr0 := rfl
@[simp] theorem State.withMxcsr_cr2 (s : State) (m : BitVec 32) : (s.withMxcsr m).cr2 = s.cr2 := rfl
@[simp] theorem State.withMxcsr_cr4 (s : State) (m : BitVec 32) : (s.withMxcsr m).cr4 = s.cr4 := rfl
@[simp] theorem State.withMxcsr_xcr0 (s : State) (m : BitVec 32) : (s.withMxcsr m).xcr0 = s.xcr0 := rfl
@[simp] theorem State.withMxcsr_efer (s : State) (m : BitVec 32) : (s.withMxcsr m).efer = s.efer := rfl
@[simp] theorem State.withMxcsr_csL (s : State) (m : BitVec 32) : (s.withMxcsr m).csL = s.csL := rfl
@[simp] theorem State.withMxcsr_cpl (s : State) (m : BitVec 32) : (s.withMxcsr m).cpl = s.cpl := rfl
@[simp] theorem State.withMxcsr_smm (s : State) (m : BitVec 32) : (s.withMxcsr m).smm = s.smm := rfl
@[simp] theorem State.withMxcsr_mem (s : State) (m : BitVec 32) : (s.withMxcsr m).mem = s.mem := rfl
@[simp] theorem State.withMxcsr_regions (s : State) (m : BitVec 32) : (s.withMxcsr m).regions = s.regions := rfl
@[simp] theorem State.withMxcsr_textBase (s : State) (m : BitVec 32) : (s.withMxcsr m).textBase = s.textBase := rfl
@[simp] theorem State.withMxcsr_textLen (s : State) (m : BitVec 32) : (s.withMxcsr m).textLen = s.textLen := rfl
@[simp] theorem State.withMxcsr_maxvl (s : State) (m : BitVec 32) : (s.withMxcsr m).maxvl = s.maxvl := rfl
@[simp] theorem State.withMxcsr_features (s : State) (m : BitVec 32) : (s.withMxcsr m).features = s.features := rfl
@[simp] theorem State.withMxcsr_cvtNan (s : State) (m : BitVec 32) : (s.withMxcsr m).cvtNan = s.cvtNan := rfl

/-! ### `retire` -/

@[simp] theorem State.retire_v (s : State) (d : VReg) (x : VecWord) (m : BitVec 32) (len : Nat) : (s.retire d x m len).v = s.v.set d.toNat x d.isLt := rfl
@[simp] theorem State.retire_k (s : State) (d : VReg) (x : VecWord) (m : BitVec 32) (len : Nat) : (s.retire d x m len).k = s.k := rfl
@[simp] theorem State.retire_g (s : State) (d : VReg) (x : VecWord) (m : BitVec 32) (len : Nat) : (s.retire d x m len).g = s.g := rfl
@[simp] theorem State.retire_pc (s : State) (d : VReg) (x : VecWord) (m : BitVec 32) (len : Nat) : (s.retire d x m len).pc = s.pc + BitVec.ofNat 64 len := rfl
@[simp] theorem State.retire_rflags (s : State) (d : VReg) (x : VecWord) (m : BitVec 32) (len : Nat) : (s.retire d x m len).rflags = s.rflags := rfl
@[simp] theorem State.retire_mxcsr (s : State) (d : VReg) (x : VecWord) (m : BitVec 32) (len : Nat) : (s.retire d x m len).mxcsr = m := rfl
@[simp] theorem State.retire_cr0 (s : State) (d : VReg) (x : VecWord) (m : BitVec 32) (len : Nat) : (s.retire d x m len).cr0 = s.cr0 := rfl
@[simp] theorem State.retire_cr2 (s : State) (d : VReg) (x : VecWord) (m : BitVec 32) (len : Nat) : (s.retire d x m len).cr2 = s.cr2 := rfl
@[simp] theorem State.retire_cr4 (s : State) (d : VReg) (x : VecWord) (m : BitVec 32) (len : Nat) : (s.retire d x m len).cr4 = s.cr4 := rfl
@[simp] theorem State.retire_xcr0 (s : State) (d : VReg) (x : VecWord) (m : BitVec 32) (len : Nat) : (s.retire d x m len).xcr0 = s.xcr0 := rfl
@[simp] theorem State.retire_efer (s : State) (d : VReg) (x : VecWord) (m : BitVec 32) (len : Nat) : (s.retire d x m len).efer = s.efer := rfl
@[simp] theorem State.retire_csL (s : State) (d : VReg) (x : VecWord) (m : BitVec 32) (len : Nat) : (s.retire d x m len).csL = s.csL := rfl
@[simp] theorem State.retire_cpl (s : State) (d : VReg) (x : VecWord) (m : BitVec 32) (len : Nat) : (s.retire d x m len).cpl = s.cpl := rfl
@[simp] theorem State.retire_smm (s : State) (d : VReg) (x : VecWord) (m : BitVec 32) (len : Nat) : (s.retire d x m len).smm = s.smm := rfl
@[simp] theorem State.retire_mem (s : State) (d : VReg) (x : VecWord) (m : BitVec 32) (len : Nat) : (s.retire d x m len).mem = s.mem := rfl
@[simp] theorem State.retire_regions (s : State) (d : VReg) (x : VecWord) (m : BitVec 32) (len : Nat) : (s.retire d x m len).regions = s.regions := rfl
@[simp] theorem State.retire_textBase (s : State) (d : VReg) (x : VecWord) (m : BitVec 32) (len : Nat) : (s.retire d x m len).textBase = s.textBase := rfl
@[simp] theorem State.retire_textLen (s : State) (d : VReg) (x : VecWord) (m : BitVec 32) (len : Nat) : (s.retire d x m len).textLen = s.textLen := rfl
@[simp] theorem State.retire_maxvl (s : State) (d : VReg) (x : VecWord) (m : BitVec 32) (len : Nat) : (s.retire d x m len).maxvl = s.maxvl := rfl
@[simp] theorem State.retire_features (s : State) (d : VReg) (x : VecWord) (m : BitVec 32) (len : Nat) : (s.retire d x m len).features = s.features := rfl
@[simp] theorem State.retire_cvtNan (s : State) (d : VReg) (x : VecWord) (m : BitVec 32) (len : Nat) : (s.retire d x m len).cvtNan = s.cvtNan := rfl

/-! ### Accessors after an update -/

/-- A vector register reads what was written to it. -/
@[simp] theorem readV_writeV_self (s : State) (n : VReg) (x : VecWord) : (s.writeV n x).readV n = x := by
  simp [State.readV, State.writeV]

/-- The other vector registers read as before. -/
theorem readV_writeV_ne (s : State) {n m : VReg} (x : VecWord) (h : m ≠ n) : (s.writeV n x).readV m = s.readV m := by
  have h' : n.toNat ≠ m.toNat := fun e => h (BitVec.eq_of_toNat_eq e.symm)
  simp [State.readV, State.writeV, h']

@[simp] theorem readK_writeV (s : State) (n : VReg) (x : VecWord) (r : BitVec 3) : (s.writeV n x).readK r = s.readK r := rfl
@[simp] theorem readG_writeV (s : State) (n : VReg) (x : VecWord) (r : GReg) : (s.writeV n x).readG r = s.readG r := rfl
@[simp] theorem readByte_writeV (s : State) (n : VReg) (x : VecWord) (r : Word) : (s.writeV n x).readByte r = s.readByte r := rfl
@[simp] theorem readV_writeByte (s : State) (a : Word) (b : Byte) (r : VReg) : (s.writeByte a b).readV r = s.readV r := rfl
@[simp] theorem readK_writeByte (s : State) (a : Word) (b : Byte) (r : BitVec 3) : (s.writeByte a b).readK r = s.readK r := rfl
@[simp] theorem readG_writeByte (s : State) (a : Word) (b : Byte) (r : GReg) : (s.writeByte a b).readG r = s.readG r := rfl
@[simp] theorem readV_withMxcsr (s : State) (m : BitVec 32) (r : VReg) : (s.withMxcsr m).readV r = s.readV r := rfl
@[simp] theorem readK_withMxcsr (s : State) (m : BitVec 32) (r : BitVec 3) : (s.withMxcsr m).readK r = s.readK r := rfl
@[simp] theorem readG_withMxcsr (s : State) (m : BitVec 32) (r : GReg) : (s.withMxcsr m).readG r = s.readG r := rfl
@[simp] theorem readByte_withMxcsr (s : State) (m : BitVec 32) (r : Word) : (s.withMxcsr m).readByte r = s.readByte r := rfl
@[simp] theorem readK_retire (s : State) (d : VReg) (x : VecWord) (m : BitVec 32) (len : Nat) (r : BitVec 3) : (s.retire d x m len).readK r = s.readK r := rfl
@[simp] theorem readG_retire (s : State) (d : VReg) (x : VecWord) (m : BitVec 32) (len : Nat) (r : GReg) : (s.retire d x m len).readG r = s.readG r := rfl
@[simp] theorem readByte_retire (s : State) (d : VReg) (x : VecWord) (m : BitVec 32) (len : Nat) (r : Word) : (s.retire d x m len).readByte r = s.readByte r := rfl

/-- The destination of an instruction that completes reads what it wrote. -/
@[simp] theorem readV_retire_self (s : State) (d : VReg) (x : VecWord) (m : BitVec 32) (len : Nat) :
    (s.retire d x m len).readV d = x := readV_writeV_self s d x

/-- Every other vector register reads as before. -/
theorem readV_retire_ne (s : State) {d r : VReg} (x : VecWord) (m : BitVec 32) (len : Nat) (h : r ≠ d) :
    (s.retire d x m len).readV r = s.readV r := readV_writeV_ne s x h

/-- The mode and the enables of the machine do not depend on MXCSR. -/
@[simp] theorem mode_withMxcsr (s : State) (m : BitVec 32) : (s.withMxcsr m).mode = s.mode := rfl

end Sys2Proof.Machine
end

