-- ==== Sys2Proof/Laws/Memory.lean ====
section
/-! SUPPORT. Memory: read after write, the canonical form, and the byte order of a read. -/

namespace Sys2Proof.Machine

open Sys2Proof

/-! ### The canonical form -/

/-- The canonical form of a non-empty memory, clause by clause. -/
theorem Memory.wf_cons (a : Nat) (b : Byte) (rest : Memory) :
    Memory.wf ((a, b) :: rest) = true ↔
      a < 2 ^ 64 ∧ b ≠ unlistedByte ∧ (∀ c ∈ rest, a < c.1) ∧ Memory.wf rest = true := by
  simp [Memory.wf, and_assoc]

/-- Every entry a write leaves was there before or is the one written. -/
theorem Memory.mem_write {m : Memory} {a : Nat} {b : Byte} {c : Host.Cell} (h : c ∈ Memory.write m a b) :
    c ∈ m ∨ c.1 = a := by
  induction m with
  | nil =>
    simp only [Memory.write] at h
    split at h <;> simp_all
  | cons e rest ih =>
    obtain ⟨k, x⟩ := e
    simp only [Memory.write] at h
    split at h
    · split at h <;> simp_all
      rcases h with h | h | h <;> simp_all
    · split at h
      · split at h <;> simp_all
        rcases h with h | h <;> simp_all
      · rcases List.mem_cons.1 h with h | h
        · simp [h]
        · rcases ih h with h | h <;> simp [h]

/-- A write keeps the canonical form. -/
theorem Memory.write_wf {m : Memory} (a : Nat) (b : Byte) (ha : a < 2 ^ 64) (h : Memory.wf m = true) :
    Memory.wf (Memory.write m a b) = true := by
  induction m with
  | nil =>
    simp only [Memory.write]
    split
    · rfl
    · rename_i hb
      exact (Memory.wf_cons a b []).2 ⟨ha, hb, by simp, rfl⟩
  | cons e rest ih =>
    obtain ⟨k, x⟩ := e
    obtain ⟨hk, hx, hlt, hr⟩ := (Memory.wf_cons k x rest).1 h
    simp only [Memory.write]
    split
    · split
      · exact h
      · rename_i hak hb
        refine (Memory.wf_cons a b _).2 ⟨ha, hb, ?_, h⟩
        intro c hc
        rcases List.mem_cons.1 hc with rfl | hc
        · exact hak
        · exact lt_trans hak (hlt c hc)
    · split
      · rename_i hak
        split
        · exact hr
        · rename_i hb
          exact (Memory.wf_cons a b _).2 ⟨ha, hb, by intro c hc; rw [hak]; exact hlt c hc, hr⟩
      · rename_i h1 h2
        refine (Memory.wf_cons k x _).2 ⟨hk, hx, ?_, ih hr⟩
        intro c hc
        rcases Memory.mem_write hc with hc | hc
        · exact hlt c hc
        · omega

/-- Storing bytes keeps the canonical form. -/
theorem writeBytes_wf (bytes : List Byte) (s : State) (a : Word) (h : s.mem.wf = true) :
    (s.writeBytes a bytes).mem.wf = true := by
  induction bytes generalizing s a with
  | nil => exact h
  | cons b rest ih => exact ih _ _ (Memory.write_wf _ _ a.isLt h)

/-! ### Read after write -/

/-- An address below every entry reads as unlisted. -/
theorem Memory.read_below {m : Memory} {a : Nat} (h : ∀ c ∈ m, a < c.1) : Memory.read m a = unlistedByte := by
  induction m with
  | nil => rfl
  | cons e rest ih =>
    obtain ⟨k, x⟩ := e
    have hk : a < k := h (k, x) (by simp)
    simp only [Memory.read, if_neg (show ¬ k = a by omega)]
    exact ih fun c hc => h c (by simp [hc])

/-- Reading the address written gives the byte written. -/
theorem Memory.read_write_self {m : Memory} (a : Nat) (b : Byte) (h : Memory.wf m = true) :
    Memory.read (Memory.write m a b) a = b := by
  induction m with
  | nil =>
    simp only [Memory.write]
    split <;> simp_all [Memory.read]
  | cons e rest ih =>
    obtain ⟨k, x⟩ := e
    obtain ⟨_, _, hlt, hr⟩ := (Memory.wf_cons k x rest).1 h
    simp only [Memory.write]
    split
    · rename_i hak
      split
      · rename_i hb
        rw [hb]
        refine Memory.read_below ?_
        intro c hc
        rcases List.mem_cons.1 hc with rfl | hc
        · exact hak
        · exact lt_trans hak (hlt c hc)
      · simp [Memory.read]
    · split
      · rename_i hak
        split
        · rename_i hb
          rw [hb, hak]
          exact Memory.read_below hlt
        · simp [Memory.read]
      · rename_i h1 h2
        simp only [Memory.read, if_neg (show ¬ k = a by omega)]
        exact ih hr

/-- Reading any other address gives what it gave before. -/
theorem Memory.read_write_ne {m : Memory} {a c : Nat} (b : Byte) (hc : c ≠ a) (h : Memory.wf m = true) :
    Memory.read (Memory.write m a b) c = Memory.read m c := by
  induction m with
  | nil =>
    simp only [Memory.write]
    split <;> simp_all [Memory.read, Ne.symm hc]
  | cons e rest ih =>
    obtain ⟨k, x⟩ := e
    obtain ⟨_, _, hlt, hr⟩ := (Memory.wf_cons k x rest).1 h
    simp only [Memory.write]
    split
    · split
      · rfl
      · simp [Memory.read, Ne.symm hc]
    · split
      · rename_i hak
        subst hak
        split <;> simp [Memory.read, Ne.symm hc]
      · simp only [Memory.read]
        split
        · rfl
        · exact ih hr

/-- The same at the level of the state. -/
theorem readByte_writeByte (s : State) (a c : Word) (b : Byte) (h : s.mem.wf = true) :
    (s.writeByte a b).readByte c = if c = a then b else s.readByte c := by
  simp only [State.readByte, State.writeByte]
  split
  · rename_i hc
    rw [hc]
    exact Memory.read_write_self _ _ h
  · rename_i hc
    exact Memory.read_write_ne _ (fun e => hc (BitVec.eq_of_toNat_eq e)) h

/-! ### Byte order of a read -/

/-- Byte `i` of a packed value is the `i`-th byte (R50), and nothing stands above the bytes packed. -/
theorem packBytes_getLsbD (value : Nat → Byte) (n i : Nat) (hn : n ≤ 32) :
    (packBytes value n).getLsbD i = (decide (i < 8 * n) && (value (i / 8)).getLsbD (i % 8)) := by
  induction n with
  | zero => simp [packBytes]
  | succ n ih =>
    simp only [packBytes, BitVec.getLsbD_or, ih (by omega), BitVec.getLsbD_shiftLeft, BitVec.getLsbD_setWidth]
    by_cases h1 : i < 8 * n
    · simp [h1, show i < 8 * (n + 1) by omega]
    · by_cases h2 : i < 8 * (n + 1)
      · have hd : i / 8 = n := by omega
        have hm : i - 8 * n = i % 8 := by omega
        simp [h1, h2, hd, hm, show i < 256 by omega, show i % 8 < 256 by omega]
      · have : (value n).getLsbD (i - 8 * n) = false := BitVec.getLsbD_of_ge _ _ (by omega)
        simp [h1, h2, this]

/-- Element `j` of what a read returns: low byte at `a + 2j`, high byte at `a + 2j + 1` (R51). -/
theorem elemAt_memRead (s : State) (a : Word) (n j : Nat) (hn : n ≤ 32) (hj : 2 * j + 2 ≤ n) :
    elemAt (s.memRead a n) j =
      s.readByte (a + BitVec.ofNat 64 (2 * j + 1)) ++ s.readByte (a + BitVec.ofNat 64 (2 * j)) := by
  apply BitVec.eq_of_getLsbD_eq
  intro i hi
  simp only [elemAt, State.memRead, BitVec.getLsbD_extractLsb', packBytes_getLsbD _ _ _ hn, BitVec.getLsbD_append, hi]
  by_cases h : i < 8
  · have h1 : (16 * j + i) / 8 = 2 * j := by omega
    have h2 : (16 * j + i) % 8 = i := by omega
    simp [h, h1, h2, show 16 * j + i < 8 * n by omega]
  · have h1 : (16 * j + i) / 8 = 2 * j + 1 := by omega
    have h2 : (16 * j + i) % 8 = i - 8 := by omega
    simp [h, h1, h2, show 16 * j + i < 8 * n by omega]

end Sys2Proof.Machine
end

