-- ==== Sys2Proof/Laws/Convert.lean ====
section
/-! SUPPORT. What each shared operation of a conversion can do, said once: the lanes of a packed vector, the flags of
`ConvertLanes`, `Commit`, the load, the checks, and the body of a form. -/

namespace Sys2Proof.Machine

open Sys2Proof

/-! ### Lanes -/

/-- Bit `i` of a packed vector: bit `i mod 32` of lane `i / 32`, 0 above the lanes packed. -/
theorem packLanes_getLsbD (value : Nat → Single) (n i : Nat) (hn : n ≤ 16) :
    (packLanes value n).getLsbD i = (decide (i < 32 * n) && (value (i / 32)).getLsbD (i % 32)) := by
  induction n with
  | zero => simp [packLanes]
  | succ n ih =>
    simp only [packLanes, BitVec.getLsbD_or, ih (by omega), BitVec.getLsbD_shiftLeft, BitVec.getLsbD_setWidth]
    by_cases h1 : i < 32 * n
    · simp [h1, show i < 32 * (n + 1) by omega]
    · by_cases h2 : i < 32 * (n + 1)
      · have hd : i / 32 = n := by omega
        have hm : i - 32 * n = i % 32 := by omega
        simp [h1, h2, hd, hm, show i < 512 by omega, show i % 32 < 512 by omega]
      · have : (value n).getLsbD (i - 32 * n) = false := BitVec.getLsbD_of_ge _ _ (by omega)
        simp [h1, h2, this]

/-- Lane `j` of a packed vector is the value packed there. -/
theorem lane_packLanes (value : Nat → Single) (n j : Nat) (hn : n ≤ 16) (hj : j < n) :
    lane (packLanes value n) j = value j := by
  apply BitVec.eq_of_getLsbD_eq
  intro i hi
  have hd : (32 * j + i) / 32 = j := by omega
  have hm : (32 * j + i) % 32 = i := by omega
  simp [lane, packLanes_getLsbD _ _ _ hn, hd, hm, hi, show 32 * j + i < 32 * n by omega]

/-- A packed vector is 0 above its lanes. -/
theorem packLanes_above (value : Nat → Single) (n i : Nat) (hn : n ≤ 16) (hi : 32 * n ≤ i) :
    (packLanes value n).getLsbD i = false := by
  simp [packLanes_getLsbD _ _ _ hn, show ¬ i < 32 * n by omega]

/-- Two packed vectors are equal when their lanes are. -/
theorem packLanes_congr {a b : Nat → Single} (n : Nat) (h : ∀ j, j < n → a j = b j) :
    packLanes a n = packLanes b n := by
  induction n with
  | zero => rfl
  | succ n ih => simp [packLanes, ih fun j hj => h j (by omega), h n (by omega)]

/-- A form has at most 16 lanes. -/
theorem Form.kl_le (f : Form) : f.kl ≤ 16 := by cases f <;> decide

/-- `VL = 32 * KL` (R9). -/
theorem Form.vl_eq (f : Form) : f.vl = 32 * f.kl := by cases f <;> decide

/-! ### The fields of the formats -/

/-- The fraction of a packed FP32 value. -/
@[simp] theorem singleFrac_packSingle (s : BitVec 1) (e : BitVec 8) (f : BitVec 23) : singleFrac (packSingle s e f) = f := by
  apply BitVec.eq_of_getLsbD_eq
  intro i hi
  simp only [singleFrac, packSingle, BitVec.getLsbD_extractLsb', BitVec.getLsbD_append, Nat.zero_add, hi, decide_true,
    Bool.true_and, if_true]

/-- The exponent of a packed FP32 value. -/
@[simp] theorem singleExp_packSingle (s : BitVec 1) (e : BitVec 8) (f : BitVec 23) : singleExp (packSingle s e f) = e := by
  apply BitVec.eq_of_getLsbD_eq
  intro i hi
  simp only [singleExp, packSingle, BitVec.getLsbD_extractLsb', BitVec.getLsbD_append, hi, decide_true, Bool.true_and,
    if_neg (show ¬ 23 + i < 23 by omega), Nat.add_sub_cancel_left, if_true]

/-- The sign of a packed FP32 value. -/
@[simp] theorem singleSign_packSingle (s : BitVec 1) (e : BitVec 8) (f : BitVec 23) : singleSign (packSingle s e f) = s := by
  apply BitVec.eq_of_getLsbD_eq
  intro i hi
  simp only [singleSign, packSingle, BitVec.getLsbD_extractLsb', BitVec.getLsbD_append, hi, decide_true, Bool.true_and,
    if_neg (show ¬ 31 + i < 23 by omega), if_neg (show ¬ 31 + i - 23 < 8 by omega), show 31 + i - 23 - 8 = i by omega]

/-- A packed FP32 value determines its fields. -/
theorem packSingle_inj {s s' : BitVec 1} {e e' : BitVec 8} {f f' : BitVec 23}
    (h : packSingle s e f = packSingle s' e' f') : s = s' ∧ e = e' ∧ f = f' :=
  ⟨by rw [← singleSign_packSingle s e f, h, singleSign_packSingle], by
    rw [← singleExp_packSingle s e f, h, singleExp_packSingle], by
    rw [← singleFrac_packSingle s e f, h, singleFrac_packSingle]⟩

/-- An FP16 value is its fields. -/
theorem half_ext {a b : Half} (hs : halfSign a = halfSign b) (he : halfExp a = halfExp b)
    (hf : halfFrac a = halfFrac b) : a = b := by
  apply BitVec.eq_of_getLsbD_eq
  intro i hi
  rcases Nat.lt_or_ge i 10 with h | h
  · have := congrArg (BitVec.getLsbD · i) hf
    simpa only [halfFrac, BitVec.getLsbD_extractLsb', Nat.zero_add, h, decide_true, Bool.true_and] using this
  rcases Nat.lt_or_ge i 15 with h' | h'
  · have := congrArg (BitVec.getLsbD · (i - 10)) he
    simpa only [halfExp, BitVec.getLsbD_extractLsb', show i - 10 < 5 by omega, decide_true, Bool.true_and,
      show 10 + (i - 10) = i by omega] using this
  · have := congrArg (BitVec.getLsbD · 0) hs
    simpa only [halfSign, BitVec.getLsbD_extractLsb', show i = 15 by omega, Nat.zero_lt_one, decide_true,
      Bool.true_and] using this

/-- The result of a NaN is the default, or a configured NaN of the input's sign (R138). -/
theorem cvtNaN_cases (cfg : List (Half × Single)) (h : Half) :
    cvtNaN cfg h = defaultNaN h ∨
      (isSingleNaN (cvtNaN cfg h) = true ∧ singleSign (cvtNaN cfg h) = halfSign h) := by
  unfold cvtNaN
  split
  · split
    · rename_i hr
      exact .inr (by simpa using hr)
    · exact .inl rfl
  · exact .inl rfl

/-! ### Flags -/

/-- `cvt_h2s` signals IE for a signalling NaN and for nothing else (R138). -/
theorem cvtH2s_ie (cfg : List (Half × Single)) (h : Half) : (cvtH2s cfg h).2.ie = isHalfSNaN h := by
  unfold cvtH2s isHalfSNaN isHalfNaN
  simp only
  split
  · rename_i he
    split <;> simp [he]
  · split
    · rename_i he
      split <;> rename_i hf <;> simp [he, hf]
    · rename_i h0 he
      simp [he]

/-- `cvt_h2s` signals DE for a denormal and for nothing else (R135). -/
theorem cvtH2s_de (cfg : List (Half × Single)) (h : Half) : (cvtH2s cfg h).2.de = isHalfDenormal h := by
  unfold cvtH2s isHalfDenormal
  simp only
  split
  · rename_i he
    split <;> rename_i hf <;> simp [he, hf]
  · rename_i he
    split
    · split <;> simp [he]
    · simp [he]

/-- IE of `ConvertLanes`: some active lane holds a signalling NaN (R143, R144). -/
theorem laneFlags_ie (cfg : List (Half × Single)) (psx : Bool) (elem : Nat → Half) (active : Nat → Bool) (n : Nat) :
    (laneFlags cfg psx elem active n).ie = true ↔ ∃ j, j < n ∧ active j = true ∧ isHalfSNaN (elem j) = true := by
  induction n with
  | zero => simp [laneFlags, FpFlags.empty]
  | succ n ih =>
    simp only [laneFlags, FpFlags.union, Bool.or_eq_true, ih]
    constructor
    · rintro (⟨j, hj, h⟩ | h)
      · exact ⟨j, by omega, h⟩
      · cases ha : active n
        · simp [ha, FpFlags.empty] at h
        · exact ⟨n, by omega, ha, by simpa [ha, FpFlags.reported, cvtH2s_ie] using h⟩
    · rintro ⟨j, hj, ha, h⟩
      rcases Nat.lt_succ_iff_lt_or_eq.1 hj with hj | rfl
      · exact .inl ⟨j, hj, ha, h⟩
      · exact .inr (by simpa [ha, FpFlags.reported, cvtH2s_ie] using h)

/-- DE of `ConvertLanes`: the instruction is VCVTPH2PSX and some active lane holds a denormal (R142 to R144). -/
theorem laneFlags_de (cfg : List (Half × Single)) (psx : Bool) (elem : Nat → Half) (active : Nat → Bool) (n : Nat) :
    (laneFlags cfg psx elem active n).de = true ↔
      psx = true ∧ ∃ j, j < n ∧ active j = true ∧ isHalfDenormal (elem j) = true := by
  induction n with
  | zero => simp [laneFlags, FpFlags.empty]
  | succ n ih =>
    simp only [laneFlags, FpFlags.union, Bool.or_eq_true, ih]
    constructor
    · rintro (⟨hp, j, hj, h⟩ | h)
      · exact ⟨hp, j, by omega, h⟩
      · cases ha : active n
        · simp [ha, FpFlags.empty] at h
        · simp only [ha, if_true, FpFlags.reported, cvtH2s_de, Bool.and_eq_true] at h
          exact ⟨h.2, n, by omega, ha, h.1⟩
    · rintro ⟨hp, j, hj, ha, h⟩
      rcases Nat.lt_succ_iff_lt_or_eq.1 hj with hj | rfl
      · exact .inl ⟨hp, j, hj, ha, h⟩
      · exact .inr (by simp [ha, FpFlags.reported, cvtH2s_de, h, hp])

/-- Setting flags: IE is ORed into bit 0, DE into bit 1, every other bit stays (R145). -/
theorem setMxcsrFlags_getLsbD (m : BitVec 32) (f : FpFlags) (i : Nat) :
    (setMxcsrFlags m f).getLsbD i = (m.getLsbD i || (decide (i = 0) && f.ie) || (decide (i = 1) && f.de)) := by
  obtain ⟨ie, de⟩ := f
  rcases i with _ | _ | i
  · cases ie <;> cases de <;> simp [setMxcsrFlags, FpFlags.bits]
  · cases ie <;> cases de <;> simp [setMxcsrFlags, FpFlags.bits]
  · have small : ∀ c : Nat, c < 4 → (BitVec.ofNat 32 c).getLsbD (i + 1 + 1) = false := by
      intro c hc
      simp only [BitVec.getLsbD, BitVec.toNat_ofNat]
      exact Nat.testBit_lt_two_pow (by calc c % 2 ^ 32 ≤ c := Nat.mod_le _ _
                                         _ < 2 ^ 2 := hc
                                         _ ≤ 2 ^ (i + 1 + 1) := Nat.pow_le_pow_right (by decide) (by omega))
    cases ie <;> cases de <;>
      simp [setMxcsrFlags, FpFlags.bits, small 1 (by decide), small 2 (by decide), small 3 (by decide)]

/-- Setting no flag changes nothing. -/
@[simp] theorem setMxcsrFlags_empty (m : BitVec 32) : setMxcsrFlags m .empty = m := by
  simp [setMxcsrFlags, FpFlags.bits, FpFlags.empty]

/-! ### Taking an exception -/

/-- Every exception ends the run with the address of the instruction saved and the state at hand (R219, R220). -/
theorem raise_eq (x : Exception) (s : State) : raise x s = .fault (.exception x s.pc s) := rfl

/-! ### Commit -/

/-- All that `Commit` can do (R149): the unmasked response of R147, or the write of the destination. -/
theorem commit_cases (d : VReg) (kl : Nat) (res : Nat → Single) (f : FpFlags) (active : Nat → Bool) (zeroing sae : Bool)
    (len : Nat) (s : State) :
    (sae = false ∧ unmasked s.mxcsr f = true ∧
      commit d kl res f active zeroing sae len s =
        raise (simdException s) (s.withMxcsr (setMxcsrFlags s.mxcsr f))) ∨
    ((sae = true ∨ unmasked s.mxcsr f = false) ∧
      commit d kl res f active zeroing sae len s =
        .next (s.retire d (packLanes (newLane (s.readV d) res active zeroing) kl)
          (if sae then s.mxcsr else setMxcsrFlags s.mxcsr f) len)) := by
  unfold commit
  cases sae <;> cases h : unmasked s.mxcsr f <;> simp

/-! ### The load -/

/-- A load answers the bytes at the address, or the reason it stops (R66). -/
theorem load_ok {vex : Bool} {a : Word} {n : Nat} {sb : Bool} {s : State} {x : BitVec 256}
    (h : load vex a n sb s = .ok x) : memStop vex a n sb s = none ∧ x = s.memRead a n := by
  unfold load at h
  split at h
  · cases h
  · rename_i hm
    exact ⟨hm, by simpa using h.symm⟩

/-- A load that is admitted reads the operand. -/
theorem load_of_admitted {vex : Bool} {a : Word} {n : Nat} {sb : Bool} {s : State}
    (h : memStop vex a n sb s = none) : load vex a n sb s = .ok (s.memRead a n) := by
  simp [load, h]

/-! ### The body of every form -/

/-- All that the body of a form can do: a check stops it, the source stops it, or it reaches `Commit`. -/
theorem convertForm_cases (f : Form) (d : VReg) (src : RegMem) (elems : Except Stop (Nat → Half))
    (active : Nat → Bool) (zeroing sae : Bool) (len : Nat) (s : State) :
    (∃ stop, accessStop f d src s = some stop ∧ convertForm f d src elems active zeroing sae len s = stop.outcome s) ∨
    (∃ stop, accessStop f d src s = none ∧ elems = .error stop ∧
      convertForm f d src elems active zeroing sae len s = stop.outcome s) ∨
    (∃ elem, accessStop f d src s = none ∧ elems = .ok elem ∧
      convertForm f d src elems active zeroing sae len s =
        commit d f.kl (fun j => (cvtH2s s.cvtNan (elem j)).1) (laneFlags s.cvtNan f.psx elem active f.kl) active zeroing
          sae len s) := by
  unfold convertForm
  cases accessStop f d src s with
  | some stop => exact .inl ⟨stop, rfl, rfl⟩
  | none =>
    cases elems with
    | error stop => exact .inr (.inl ⟨stop, rfl, rfl, rfl⟩)
    | ok elem => exact .inr (.inr ⟨elem, rfl, rfl, rfl⟩)

/-- A stop never answers a next state. -/
theorem Stop.outcome_ne_next (s t : State) (stop : Stop) : stop.outcome s ≠ .next t := by
  cases stop <;> simp [Stop.outcome, raise]

/-- Where the body of a form answers a next state, no check stopped it, its source was read, no unmasked exception was
signalled, and the state is the retired one. -/
theorem convertForm_next {f : Form} {d : VReg} {src : RegMem} {elems : Except Stop (Nat → Half)}
    {active : Nat → Bool} {zeroing sae : Bool} {len : Nat} {s t : State}
    (h : convertForm f d src elems active zeroing sae len s = .next t) :
    ∃ elem, accessStop f d src s = none ∧ elems = .ok elem ∧
      (sae = true ∨ unmasked s.mxcsr (laneFlags s.cvtNan f.psx elem active f.kl) = false) ∧
      t = s.retire d
        (packLanes (newLane (s.readV d) (fun j => (cvtH2s s.cvtNan (elem j)).1) active zeroing) f.kl)
        (if sae then s.mxcsr else setMxcsrFlags s.mxcsr (laneFlags s.cvtNan f.psx elem active f.kl)) len := by
  rcases convertForm_cases f d src elems active zeroing sae len s with ⟨stop, -, e⟩ | ⟨stop, -, -, e⟩ | ⟨elem, ha, he, e⟩
  · exact absurd (e ▸ h) (stop.outcome_ne_next s t)
  · exact absurd (e ▸ h) (stop.outcome_ne_next s t)
  · refine ⟨elem, ha, he, ?_⟩
    rcases commit_cases d f.kl (fun j => (cvtH2s s.cvtNan (elem j)).1) (laneFlags s.cvtNan f.psx elem active f.kl)
      active zeroing sae len s with ⟨-, -, hc⟩ | ⟨hm, hc⟩
    · rw [e, hc] at h
      simp [raise] at h
    · rw [e, hc] at h
      exact ⟨hm, by injection h with h; exact h.symm⟩

end Sys2Proof.Machine
end

