-- ==== Sys2Proof/Laws/Exec.lean ====
section
/-! SUPPORT. Every instruction is the shared body over what it names: the one lemma through which a statement about all
instructions is proved without unfolding thirteen meanings. -/

namespace Sys2Proof.Machine

open Sys2Proof

/-- What the source of an instruction yields: its elements, or the reason the load stops. -/
def sourceElems (i : Instr) (s : State) : Except Stop (Nat → Half) :=
  match i.source with
  | .reg n => .ok (elemAt (s.readV n))
  | .mem m =>
    (load i.form.vex (i.address s m) i.readBytes (stackBase m) s).map
      fun x j => elemAt x (if i.broadcasts then 0 else j)

/-- `exec` is the shared body over what the instruction names. -/
theorem exec_eq_convertForm (i : Instr) (s : State) :
    exec i s = convertForm i.form i.dest i.source (sourceElems i s) (i.active s) i.zeroes i.suppresses i.len s := by
  cases i <;> rfl

/-- A memory operand reads at most 32 bytes (R52). -/
theorem readBytes_le (i : Instr) : i.readBytes ≤ 32 := by
  have := i.form.kl_le
  unfold Instr.readBytes
  split <;> omega

/-- The bytes of a memory operand cover its elements (R52). -/
theorem element_in_operand (i : Instr) (j : Nat) (hj : j < i.form.kl) :
    2 * (if i.broadcasts then 0 else j) + 2 ≤ i.readBytes := by
  cases i <;> simp_all [Instr.broadcasts, Instr.readBytes, Instr.form, Form.kl, Form.vl] <;> omega

/-- Element `j` of an instruction, from what the load returns (R51, R57). -/
theorem elemAt_eq_element (i : Instr) (s : State) (m : MemOp) (hm : i.source = .mem m) (j : Nat) (hj : j < i.form.kl) :
    elemAt (s.memRead (i.address s m) i.readBytes) (if i.broadcasts then 0 else j) = i.element s j := by
  rw [elemAt_memRead s _ _ _ (readBytes_le i) (element_in_operand i j hj)]
  simp only [Instr.element, hm]
  cases i.broadcasts <;> simp

/-- Where the source of an instruction is read, its elements are those the instruction names. -/
theorem sourceElems_ok {i : Instr} {s : State} {elem : Nat → Half} (h : sourceElems i s = .ok elem) (j : Nat)
    (hj : j < i.form.kl) : elem j = i.element s j := by
  unfold sourceElems at h
  cases hs : i.source with
  | reg n =>
    simp only [hs, Except.ok.injEq] at h
    simp [← h, Instr.element, hs]
  | mem m =>
    simp only [hs] at h
    cases hl : load i.form.vex (i.address s m) i.readBytes (stackBase m) s with
    | error stop => simp [hl, Except.map] at h
    | ok x =>
      simp only [hl, Except.map, Except.ok.injEq] at h
      rw [← h, (load_ok hl).2]
      exact elemAt_eq_element i s m hs j hj

/-- IE of an instruction's lanes is `Invalid`. -/
theorem laneFlags_ie_iff {i : Instr} {s : State} {elem : Nat → Half}
    (he : ∀ j, j < i.form.kl → elem j = i.element s j) :
    (laneFlags s.cvtNan i.form.psx elem (i.active s) i.form.kl).ie = true ↔ Invalid i s := by
  rw [laneFlags_ie]
  constructor
  · rintro ⟨j, hj, ha, h⟩
    exact ⟨j, hj, ha, he j hj ▸ h⟩
  · rintro ⟨j, hj, ha, h⟩
    exact ⟨j, hj, ha, (he j hj).symm ▸ h⟩

/-- DE of an instruction's lanes is `Denormal`. -/
theorem laneFlags_de_iff {i : Instr} {s : State} {elem : Nat → Half}
    (he : ∀ j, j < i.form.kl → elem j = i.element s j) :
    (laneFlags s.cvtNan i.form.psx elem (i.active s) i.form.kl).de = true ↔ Denormal i s := by
  rw [laneFlags_de]
  constructor
  · rintro ⟨hp, j, hj, ha, h⟩
    exact ⟨hp, j, hj, ha, he j hj ▸ h⟩
  · rintro ⟨hp, j, hj, ha, h⟩
    exact ⟨hp, j, hj, ha, (he j hj).symm ▸ h⟩

/-- An instruction that is ready is stopped by no check (R242). -/
theorem accessStop_of_ready {i : Instr} {s : State} (h : Ready i s) : accessStop i.form i.dest i.source s = none := by
  simp [accessStop, modeStop, formUnavailable, h.mode, h.osxsave, h.xcr0, h.features, h.ts, h.maxvl, h.registers]

/-- A load whose bytes are canonical and in no region, with no alignment check that could fail, is admitted (R59). -/
theorem memStop_of_readable {vex : Bool} {a : Word} {n : Nat} {sb : Bool} {s : State}
    (hc : canonicalOperand s.la57 a n = true)
    (hr : ∀ j, j < n → regionAt s.regions (a + BitVec.ofNat 64 j) = none)
    (ha : vex = true ∨ s.alignmentChecking = false ∨ a.toNat % n = 0) : memStop vex a n sb s = none := by
  have hp : firstPageFault s a n = none := by
    simp only [firstPageFault, List.findSome?_eq_none_iff, List.mem_range]
    intro j hj
    simp [hr j hj]
  have hd : firstDevice s a n = none := by
    simp only [firstDevice, List.findSome?_eq_none_iff, List.mem_range]
    intro j hj
    simp [hr j hj]
  have hf : alignmentFault vex a n s = false := by
    rcases ha with h | h | h <;> simp [alignmentFault, h]
  simp [memStop, hc, hp, hd, hf]

/-- The source of an instruction whose operand can be read is read. -/
theorem sourceElems_of_readable {i : Instr} {s : State} (h : Readable i s) : ∃ elem, sourceElems i s = .ok elem := by
  unfold sourceElems
  unfold Readable at h
  cases hs : i.source with
  | reg n => exact ⟨_, rfl⟩
  | mem m =>
    simp only [hs] at h
    exact ⟨_, by simp only [load_of_admitted (memStop_of_readable h.1 h.2.1 h.2.2)]; rfl⟩

/-! ### What the checks, the load and `exec` can answer -/

/-- All that the checks before a form can answer (R204, R205, R124 (e)). -/
theorem accessStop_cases {f : Form} {d : VReg} {src : RegMem} {s : State} {stop : Stop}
    (h : accessStop f d src s = some stop) :
    stop = .raises .ud ∨ stop = .raises .nm ∨ ∃ m, stop = .refuses (.modeOutOfScope m) ∧ s.mode = m := by
  unfold accessStop modeStop at h
  cases hm : s.mode <;> simp only [hm, Option.some.injEq] at h
  case mode64 =>
    split at h
    · simp_all
    · split at h <;> simp_all
  all_goals simp [← h]

/-- A form that no check stops has its VL within `MAXVL` (R21). -/
theorem vl_le_of_accessStop {f : Form} {d : VReg} {src : RegMem} {s : State} (h : accessStop f d src s = none) :
    f.vl ≤ s.maxvl.bits := by
  by_contra hc
  have hu : formUnavailable f d src s = true := by simp [formUnavailable, Nat.lt_of_not_le hc]
  unfold accessStop at h
  split at h <;> simp_all

/-- A form that no check stops has a destination register that exists (R23). -/
theorem dest_lt_of_accessStop {f : Form} {d : VReg} {src : RegMem} {s : State} (h : accessStop f d src s = none) :
    d.toNat < s.features.nvec := by
  by_contra hc
  have hu : formUnavailable f d src s = true := by simp [formUnavailable, registersExist, Nat.le_of_not_lt hc]
  unfold accessStop at h
  split at h <;> simp_all

/-- A stop that is an exception is the fault of it, with the state as it was. -/
theorem Stop.outcome_raises (s : State) (x : Exception) :
    Stop.outcome s (.raises x) = .fault (.exception x s.pc s) := rfl

/-- All that `mem_admits` can answer against a read (R59, R58). -/
theorem memStop_cases {vex : Bool} {a : Word} {n : Nat} {sb : Bool} {s : State} {stop : Stop}
    (h : memStop vex a n sb s = some stop) :
    (canonicalOperand s.la57 a n = false ∧ stop = .raises (if sb then .ss else .gp)) ∨
    (∃ p, firstPageFault s a n = some p ∧ stop = .raises (.pf p.1 p.2)) ∨
    (alignmentFault vex a n s = true ∧ stop = .raises .ac) ∨
    (∃ j, j < n ∧ regionAt s.regions (a + BitVec.ofNat 64 j) = some .device ∧
      stop = .refuses (.deviceOperand (a + BitVec.ofNat 64 j))) := by
  unfold memStop at h
  split at h
  · rename_i hc
    exact .inl ⟨hc, by simpa using h.symm⟩
  · split at h
    · rename_i p hp
      exact .inr (.inl ⟨p, hp, by simpa using h.symm⟩)
    · split at h
      · rename_i ha
        exact .inr (.inr (.inl ⟨ha, by simpa using h.symm⟩))
      · obtain ⟨d, hd, rfl⟩ := Option.map_eq_some_iff.1 h
        obtain ⟨j, hn, hj⟩ := List.exists_of_findSome?_eq_some hd
        refine .inr (.inr (.inr ⟨j, List.mem_range.1 hn, ?_⟩))
        split at hj <;> simp_all

/-- A source that stops is a memory operand whose read is not admitted. -/
theorem sourceElems_error {i : Instr} {s : State} {stop : Stop} (h : sourceElems i s = .error stop) :
    ∃ m, i.source = .mem m ∧ memStop i.form.vex (i.address s m) i.readBytes (stackBase m) s = some stop := by
  unfold sourceElems at h
  cases hs : i.source with
  | reg n => simp [hs] at h
  | mem m =>
    refine ⟨m, rfl, ?_⟩
    cases hm : memStop i.form.vex (i.address s m) i.readBytes (stackBase m) s with
    | none => simp [hs, load, hm, Except.map] at h
    | some st => simpa [hs, load, hm, Except.map] using h

/-- All that `exec` can answer: a next state, the stop of a check, the stop of the load, or the unmasked response. -/
theorem exec_cases (i : Instr) (s : State) :
    (∃ t, exec i s = .next t) ∨
    (∃ stop, accessStop i.form i.dest i.source s = some stop ∧ exec i s = stop.outcome s) ∨
    (∃ m stop, accessStop i.form i.dest i.source s = none ∧ i.source = .mem m ∧
      memStop i.form.vex (i.address s m) i.readBytes (stackBase m) s = some stop ∧ exec i s = stop.outcome s) ∨
    (∃ f, exec i s = raise (simdException s) (s.withMxcsr (setMxcsrFlags s.mxcsr f))) := by
  rw [exec_eq_convertForm]
  rcases convertForm_cases i.form i.dest i.source (sourceElems i s) (i.active s) i.zeroes i.suppresses i.len s with
    ⟨stop, h, e⟩ | ⟨stop, ha, h, e⟩ | ⟨elem, _, _, e⟩
  · exact .inr (.inl ⟨stop, h, e⟩)
  · obtain ⟨m, hm, hs⟩ := sourceElems_error h
    exact .inr (.inr (.inl ⟨m, stop, ha, hm, hs, e⟩))
  · rw [e]
    rcases commit_cases i.dest i.form.kl (fun j => (cvtH2s s.cvtNan (elem j)).1)
      (laneFlags s.cvtNan i.form.psx elem (i.active s) i.form.kl) (i.active s) i.zeroes i.suppresses i.len s with
      ⟨_, _, h⟩ | ⟨_, h⟩
    · exact .inr (.inr (.inr ⟨_, h⟩))
    · exact .inl ⟨_, h⟩

/-- Where `exec` answers a next state, that state is the retired one, and what let it be so. -/
theorem exec_next {i : Instr} {s t : State} (h : exec i s = .next t) :
    ∃ elem, accessStop i.form i.dest i.source s = none ∧ sourceElems i s = .ok elem ∧
      (i.suppresses = true ∨
        unmasked s.mxcsr (laneFlags s.cvtNan i.form.psx elem (i.active s) i.form.kl) = false) ∧
      t = s.retire i.dest
        (packLanes (newLane (s.readV i.dest) (fun j => (cvtH2s s.cvtNan (elem j)).1) (i.active s) i.zeroes) i.form.kl)
        (if i.suppresses then s.mxcsr
          else setMxcsrFlags s.mxcsr (laneFlags s.cvtNan i.form.psx elem (i.active s) i.form.kl)) i.len :=
  convertForm_next (exec_eq_convertForm i s ▸ h)

/-- The converse: no check, a source that is read, and no unmasked exception give the retired state. -/
theorem exec_of_source {i : Instr} {s : State} {elem : Nat → Half} (h1 : accessStop i.form i.dest i.source s = none)
    (h2 : sourceElems i s = .ok elem)
    (h3 : i.suppresses = true ∨
      unmasked s.mxcsr (laneFlags s.cvtNan i.form.psx elem (i.active s) i.form.kl) = false) :
    exec i s = .next (s.retire i.dest
      (packLanes (newLane (s.readV i.dest) (fun j => (cvtH2s s.cvtNan (elem j)).1) (i.active s) i.zeroes) i.form.kl)
      (if i.suppresses then s.mxcsr
        else setMxcsrFlags s.mxcsr (laneFlags s.cvtNan i.form.psx elem (i.active s) i.form.kl)) i.len) := by
  rw [exec_eq_convertForm]
  unfold convertForm
  simp only [h1, h2, convertLanes, commit]
  rcases h3 with h3 | h3 <;> simp [h3]

/-- Outside 64-bit mode the launch is refused for the mode (R7). -/
theorem launchRefusal_of_mode {s : State} (h : s.mode ≠ .mode64) : launchRefusal s = some (.modeOutOfScope s.mode) := by
  simp [launchRefusal, modeRefusal, h]

/-- A launch is not refused exactly where the common premise holds (R34, R244). -/
theorem launchRefusal_none {s : State} : launchRefusal s = none ↔ LaunchOk s := by
  constructor
  · intro h
    by_cases hm : s.mode = .mode64
    · simp [launchRefusal, modeRefusal, hm, commonPremises, Premise.holds] at h
      exact ⟨hm, h.1, h.2.1, h.2.2.1, h.2.2.2.1, h.2.2.2.2⟩
    · simp [launchRefusal_of_mode hm] at h
  · rintro ⟨h1, h2, h3, h4, h5, h6⟩
    simp [launchRefusal, modeRefusal, commonPremises, Premise.holds, h1, h2, h3, h4, h5, h6]

/-- In 64-bit mode a refused launch names a part of the premise that fails (R34, R244). -/
theorem launchRefusal_some {s : State} {r : Refusal} (hm : s.mode = .mode64) (h : launchRefusal s = some r) :
    ∃ p : Premise, p.holds s = false ∧ r = .launchRefused p := by
  simp only [launchRefusal, modeRefusal, if_pos hm, Option.map_eq_some_iff] at h
  obtain ⟨p, hp, rfl⟩ := h
  exact ⟨p, by simpa using List.find?_some hp, rfl⟩

/-- A step whose launch is refused. -/
theorem step_of_refused {s : State} {bytes : List Byte} {r : Refusal} (h : fetch s = .ok bytes)
    (hl : launchRefusal s = some r) : step s = .refused r := by
  simp [step, h, hl]

/-- A step under the common premise is what the bytes at `pc` decode to, a form needing its XCR0 bits too (R34). -/
theorem step_of_fetch {s : State} {bytes : List Byte} (h : fetch s = .ok bytes) (hl : LaunchOk s) :
    step s =
      match decode bytes with
      | .instr i _ => if s.xcr0Enables i.form.vex then exec i s else .refused (.launchRefused (.xcr0 i.form.vex))
      | .ud => illegalEncoding s
      | .refused why => .refused (.undecodable why) := by
  cases hd : decode bytes with
  | instr i rest => cases hx : s.xcr0Enables i.form.vex <;>
      simp [step, h, launchRefusal_none.2 hl, hd, formRefusal, Premise.holds, hx]
  | ud => simp [step, h, launchRefusal_none.2 hl, hd]
  | refused why => simp [step, h, launchRefusal_none.2 hl, hd]

/-- A step that answers a next state has run a decoded instruction, under the whole premise (R34, R244). -/
theorem step_next {s t : State} (h : step s = .next t) :
    LaunchOk s ∧
    ∃ (bytes rest : List Byte) (i : Instr), fetch s = .ok bytes ∧ decode bytes = .instr i rest ∧
      s.xcr0Enables i.form.vex = true ∧ exec i s = .next t := by
  cases hf : fetch s with
  | error r => simp [step, hf] at h
  | ok bytes =>
    cases hr : launchRefusal s with
    | some r => simp [step_of_refused hf hr] at h
    | none =>
      have hl := launchRefusal_none.1 hr
      rw [step_of_fetch hf hl] at h
      split at h
      · split at h
        · exact ⟨hl, _, _, _, rfl, ‹_›, ‹_›, h⟩
        · cases h
      · cases h
      · cases h

end Sys2Proof.Machine
end

