-- ==== Sys2Proof/Laws/PerInstr.lean ====
section
/-! SUPPORT. The statements made instruction by instruction: R121, the length of an instruction is the number of bytes
its encoding has. -/

namespace Sys2Proof.Laws.EncodeLength

open Sys2Proof

/-- R117: a displacement of `D` bytes. -/
theorem disp_length (d : Disp) : d.bytes.length = d.len := by cases d <;> rfl

/-- R121: ModRM, and the `S + D` bytes of a memory operand after it. -/
theorem mem_length (reg : BitVec 3) (m : MemOp) : (m.tail reg).length = 1 + m.len := by
  cases m <;> simp [MemOp.tail, MemOp.len, disp_length, Disp.len] <;> omega

/-- R121: ModRM, and the `S + D` bytes of operand 2 after it. -/
theorem regMem_length (reg : BitVec 3) (src : RegMem) : (src.tail reg).length = 1 + src.len := by
  cases src <;> simp [RegMem.tail, RegMem.len, mem_length]

/-- R121 for a VEX form: three prefix bytes, opcode, ModRM, and what follows. -/
theorem vex_length (l : BitVec 1) (d : VReg) (src : RegMem) : (encodeVex l d src).length = vexLen src := by
  simp [encodeVex, regMem_length, vexLen]; omega

/-- R121 for an EVEX form: four prefix bytes, opcode, ModRM, and what follows. -/
theorem evex_length (map : BitVec 3) (ll : BitVec 2) (b : BitVec 1) (d : VReg) (k : Mask) (src : RegMem) :
    (encodeEvex map ll b d k src).length = evexLen src := by
  simp [encodeEvex, regMem_length, evexLen]; omega

/-- R121: the length of the encoding of `i`. -/
def Statement (i : Instr) : Prop := (encode i).length = i.len

theorem vexPs128 (d : VReg) (src : RegMem) : Statement (.vexPs128 d src) := vex_length _ _ _
theorem vexPs256 (d : VReg) (src : RegMem) : Statement (.vexPs256 d src) := vex_length _ _ _
theorem evexPs128 (d : VReg) (k : Mask) (src : RegMem) : Statement (.evexPs128 d k src) := evex_length _ _ _ _ _ _
theorem evexPs256 (d : VReg) (k : Mask) (src : RegMem) : Statement (.evexPs256 d k src) := evex_length _ _ _ _ _ _
theorem evexPs512 (d : VReg) (k : Mask) (src : RegMem) : Statement (.evexPs512 d k src) := evex_length _ _ _ _ _ _
theorem evexPs512Sae (d : VReg) (k : Mask) (n : VReg) : Statement (.evexPs512Sae d k n) := evex_length _ _ _ _ _ _
theorem psx128 (d : VReg) (k : Mask) (src : RegMem) : Statement (.psx128 d k src) := evex_length _ _ _ _ _ _
theorem psx256 (d : VReg) (k : Mask) (src : RegMem) : Statement (.psx256 d k src) := evex_length _ _ _ _ _ _
theorem psx512 (d : VReg) (k : Mask) (src : RegMem) : Statement (.psx512 d k src) := evex_length _ _ _ _ _ _
theorem psx128Bcst (d : VReg) (k : Mask) (m : MemOp) : Statement (.psx128Bcst d k m) := evex_length _ _ _ _ _ _
theorem psx256Bcst (d : VReg) (k : Mask) (m : MemOp) : Statement (.psx256Bcst d k m) := evex_length _ _ _ _ _ _
theorem psx512Bcst (d : VReg) (k : Mask) (m : MemOp) : Statement (.psx512Bcst d k m) := evex_length _ _ _ _ _ _
theorem psx512Sae (d : VReg) (k : Mask) (n : VReg) : Statement (.psx512Sae d k n) := evex_length _ _ _ _ _ _

end Sys2Proof.Laws.EncodeLength
end

