-- ==== Sys2Proof/Tests/Slice0.lean ====
section
/-! SUPPORT. Tests on fixed values, every expected value from spec/95_test_vectors.md, from the example of a rule, or
worked out by hand from a rule; and for every statement with hypotheses a state and operands that meet them. -/

namespace Sys2Proof.Tests

-- The vector registers are 512 bits wide: `decide` then computes with 2^512.
set_option exponentiation.threshold 600

open Sys2Proof Sys2Proof.Machine

/-! ### Building states -/

/-- Reset, then launched: every form ready, every register zero, MXCSR 1F80H. -/
def machine : State := State.reset.launched

/-- A general register set. -/
def withG (n : GReg) (x : Word) (s : State) : State := { s with g := s.g.set n.toNat x n.isLt }

/-- An opmask register set. -/
def withK (n : BitVec 3) (x : BitVec 64) (s : State) : State := { s with k := s.k.set n.toNat x n.isLt }

/-- A vector register set. -/
def withV (n : VReg) (x : VecWord) (s : State) : State := s.writeV n x

/-- Bytes of memory set. -/
def withMem (a : Word) (bytes : List Byte) (s : State) : State := s.writeBytes a bytes

/-- The vector register with these elements, lane 0 first, and zeros above. -/
def halves : List Half → VecWord
  | [] => 0
  | h :: rest => (halves rest <<< 16) ||| h.setWidth 512

/-- The vector register with these lanes, lane 0 first, and zeros above. -/
def lanes : List Single → VecWord
  | [] => 0
  | r :: rest => (lanes rest <<< 32) ||| r.setWidth 512

/-- A vector register and MXCSR after an instruction that completes. -/
def leaves (n : VReg) : Result → Option (VecWord × BitVec 32)
  | .next t => some (t.readV n, t.mxcsr)
  | .fault _ => none
  | .refused _ => none

/-- The exception an instruction ends in, with the saved `pc`, MXCSR and one vector register. -/
def raised (n : VReg) : Result → Option (Exception × Word × BitVec 32 × VecWord)
  | .fault (.exception x pc t) => some (x, pc, t.mxcsr, t.readV n)
  | .next _ => none
  | .refused _ => none

/-- The result is a next state. -/
def completes (r : Result) : Bool := (leaves 0 r).isSome

theorem completes_iff {r : Result} : completes r = true → ∃ t, r = .next t := by
  cases r with
  | next t => exact fun _ => ⟨t, rfl⟩
  | fault f => cases f; simp [completes, leaves]
  | refused _ => simp [completes, leaves]

/-! ### Well-formedness: one ill-formed term for each check -/

/-- R112: `r/m = 100b` selects a SIB byte and is no base. -/
theorem test_wf_refuses_base_100 : MemOp.wf (.base 12 (.disp8 0)) = false := by decide

/-- R113: `mod = 00b`, `r/m = 101b` is RIP-relative and no base. -/
theorem test_wf_refuses_base_101_without_disp : MemOp.wf (.base 13 .none) = false := by decide

/-- R114: `mod = 00b`, `SIB.base = 101b` is no base. -/
theorem test_wf_refuses_sib_base_101_without_disp : MemOp.wf (.sib 5 1 0 .none) = false := by decide

/-- R110: `z = 1` with `aaa = 000b`, in every EVEX form. -/
theorem test_wf_refuses_zeroing_without_mask :
    Instr.wf (.evexPs128 0 ⟨0, true⟩ (.reg 1)) = false ∧ Instr.wf (.evexPs256 0 ⟨0, true⟩ (.reg 1)) = false ∧
    Instr.wf (.evexPs512 0 ⟨0, true⟩ (.reg 1)) = false ∧ Instr.wf (.evexPs512Sae 0 ⟨0, true⟩ 1) = false ∧
    Instr.wf (.psx128 0 ⟨0, true⟩ (.reg 1)) = false ∧ Instr.wf (.psx256 0 ⟨0, true⟩ (.reg 1)) = false ∧
    Instr.wf (.psx512 0 ⟨0, true⟩ (.reg 1)) = false ∧ Instr.wf (.psx512Sae 0 ⟨0, true⟩ 1) = false ∧
    Instr.wf (.psx128Bcst 0 ⟨0, true⟩ (.base 3 .none)) = false ∧
    Instr.wf (.psx256Bcst 0 ⟨0, true⟩ (.base 3 .none)) = false ∧
    Instr.wf (.psx512Bcst 0 ⟨0, true⟩ (.base 3 .none)) = false := by decide

/-- R95: a VEX form names no vector register above 15. -/
theorem test_wf_refuses_vex_register_16 :
    Instr.wf (.vexPs128 16 (.reg 0)) = false ∧ Instr.wf (.vexPs256 0 (.reg 16)) = false := by decide

/-- An ill-formed memory operand makes the instruction ill-formed, VEX and EVEX. -/
theorem test_wf_looks_into_the_operand :
    Instr.wf (.vexPs128 0 (.mem (.base 4 .none))) = false ∧
    Instr.wf (.psx512 0 ⟨0, false⟩ (.mem (.base 5 .none))) = false ∧
    Instr.wf (.psx256Bcst 0 ⟨0, false⟩ (.sib 13 1 0 .none)) = false := by decide

/-! ### Decoding: the words of section 2.2, at least one for each constructor -/

theorem test_decode_vexPs128 :
    decode [0xC4, 0x42, 0x79, 0x13, 0x08] = .instr (.vexPs128 9 (.mem (.base 8 .none))) [] := by decide

theorem test_decode_vexPs128_sib :
    decode [0xC4, 0x82, 0x79, 0x13, 0x5C, 0x65, 0x00] =
      .instr (.vexPs128 3 (.mem (.sib 13 12 1 (.disp8 0)))) [] := by decide

theorem test_decode_vexPs256 :
    decode [0xC4, 0x62, 0x7D, 0x13, 0x3C, 0x24] = .instr (.vexPs256 15 (.mem (.sib 4 4 0 .none))) [] := by decide

theorem test_decode_evexPs128 :
    decode [0x62, 0xF2, 0x7D, 0x8A, 0x13, 0xEC] = .instr (.evexPs128 5 ⟨2, true⟩ (.reg 4)) [] := by decide

theorem test_decode_evexPs256 :
    decode [0x62, 0xE2, 0x7D, 0x2B, 0x13, 0x52, 0xFF] =
      .instr (.evexPs256 18 ⟨3, false⟩ (.mem (.base 2 (.disp8 0xFF)))) [] := by decide

theorem test_decode_evexPs512 :
    decode [0x62, 0x82, 0x7D, 0xCC, 0x13, 0x5C, 0x11, 0x7F] =
      .instr (.evexPs512 19 ⟨4, true⟩ (.mem (.sib 9 10 0 (.disp8 0x7F)))) [] := by decide

theorem test_decode_evexPs512_high_registers :
    decode [0x62, 0x22, 0x7D, 0x48, 0x13, 0xF8] = .instr (.evexPs512 31 ⟨0, false⟩ (.reg 16)) [] := by decide

/-- R103: `L'L` 00b and 10b are the same instruction under sae. -/
theorem test_decode_evexPs512Sae :
    decode [0x62, 0x92, 0x7D, 0x18, 0x13, 0xC7] = .instr (.evexPs512Sae 0 ⟨0, false⟩ 31) [] ∧
    decode [0x62, 0x92, 0x7D, 0x58, 0x13, 0xC7] = .instr (.evexPs512Sae 0 ⟨0, false⟩ 31) [] := by decide

theorem test_decode_psx128 :
    decode [0x62, 0xE6, 0x7D, 0x08, 0x13, 0x25, 0xF8, 0xFF, 0xFF, 0xFF] =
      .instr (.psx128 20 ⟨0, false⟩ (.mem (.ripRel 0xFFFFFFF8))) [] := by decide

theorem test_decode_psx256 :
    decode [0x62, 0xF6, 0x7D, 0x28, 0x13, 0x50, 0x01] =
      .instr (.psx256 2 ⟨0, false⟩ (.mem (.base 0 (.disp8 1)))) [] := by decide

theorem test_decode_psx512 :
    decode [0x62, 0x26, 0x7D, 0x4F, 0x13, 0xB4, 0xF5, 0x00, 0x00, 0x00, 0x10] =
      .instr (.psx512 30 ⟨7, false⟩ (.mem (.sib 5 14 3 (.disp32 0x10000000)))) [] := by decide

theorem test_decode_psx128Bcst :
    decode [0x62, 0xE6, 0x7D, 0x18, 0x13, 0x69, 0x7F] =
      .instr (.psx128Bcst 21 ⟨0, false⟩ (.base 1 (.disp8 0x7F))) [] := by decide

theorem test_decode_psx256Bcst :
    decode [0x62, 0xE6, 0x7D, 0x3D, 0x13, 0x72, 0x80] =
      .instr (.psx256Bcst 22 ⟨5, false⟩ (.base 2 (.disp8 0x80))) [] := by decide

theorem test_decode_psx512Bcst :
    decode [0x62, 0x86, 0x7D, 0xDE, 0x13, 0x7C, 0xF7, 0x01] =
      .instr (.psx512Bcst 23 ⟨6, true⟩ (.sib 15 14 3 (.disp8 1))) [] := by decide

theorem test_decode_psx512Sae :
    decode [0x62, 0x06, 0x7D, 0x18, 0x13, 0xCA] = .instr (.psx512Sae 25 ⟨0, false⟩ 26) [] := by decide

theorem test_decode_no_base :
    decode [0xC4, 0xE2, 0x79, 0x13, 0x34, 0xCD, 0x40, 0x00, 0x00, 0x00] =
      .instr (.vexPs128 6 (.mem (.sibNoBase 1 3 0x40))) [] := by decide

/-- Section 2.3: the encodings that are #UD by themselves. -/
theorem test_decode_ud :
    ∀ bytes ∈ ([[0xC4, 0xE2, 0xF9, 0x13, 0xC1], [0xC4, 0xE2, 0x71, 0x13, 0xC1], [0xC4, 0xE2, 0x01, 0x13, 0xC1],
      [0x62, 0xF2, 0xFD, 0x08, 0x13, 0xC1], [0x62, 0xF2, 0x75, 0x08, 0x13, 0xC1], [0x62, 0xF2, 0x7D, 0x00, 0x13, 0xC1],
      [0x62, 0xFA, 0x7D, 0x08, 0x13, 0xC1], [0x62, 0xF2, 0x79, 0x08, 0x13, 0xC1], [0x62, 0xF2, 0x7D, 0x68, 0x13, 0xC1],
      [0x62, 0xF2, 0x7D, 0x18, 0x13, 0x08]] : List (List Byte)), decode bytes = .ud := by decide

/-- Section 2.3: the encodings that are refused, each with its reason. -/
theorem test_decode_refused :
    ∀ p ∈ ([([0x62, 0xF2, 0x7D, 0x88, 0x13, 0xC1], .zeroingWithoutMask),
      ([0x62, 0xF2, 0x7D, 0x38, 0x13, 0xC1], .saeLength), ([0x62, 0xF2, 0x7D, 0x78, 0x13, 0xC1], .saeLength),
      ([0xC5, 0xF9, 0x13, 0xC1], .firstByte 0xC5), ([0x66, 0xC4, 0xE2, 0x79, 0x13, 0xC1], .firstByte 0x66),
      ([0x67, 0xC4, 0xE2, 0x79, 0x13, 0x00], .firstByte 0x67), ([0x64, 0xC4, 0xE2, 0x79, 0x13, 0x00], .firstByte 0x64),
      ([0x62, 0xF2, 0x7D, 0x98, 0x13, 0xC1], .zeroingWithoutMask),
      ([0x62, 0xF6, 0x7D, 0xB8, 0x13, 0x08], .zeroingWithoutMask),
      ([0xC4, 0xE1, 0x79, 0x13, 0xC1], .otherInstruction), ([0xC4, 0xE2, 0x7A, 0x13, 0xC1], .otherInstruction),
      ([0x62, 0xF5, 0x7D, 0x08, 0x13, 0xC1], .otherInstruction)] : List (List Byte × DecodeRefusal)),
      decode p.1 = .refused p.2 := by decide

/-! ### The element conversion: rows of section 2.1 -/

theorem test_cvtH2s_finite :
    [0x8000, 0x0001, 0x0003, 0x01FF, 0x83FF, 0x0400, 0xFBFF].map (fun h => (cvtH2s [] h).1) =
      [0x80000000, 0x33800000, 0x34400000, 0x37FF8000, 0xB87FC000, 0x38800000, 0xC77FE000] := by decide

theorem test_cvtH2s_infinity_nan :
    [0xFC00, 0x7C01, 0xFDFF, 0x7E00].map (fun h => (cvtH2s [] h).1) =
      [0xFF800000, 0x7FC02000, 0xFFFFE000, 0x7FC00000] := by decide

/-- D14: a configured NaN of the input's sign is delivered, one of the other sign is not. -/
theorem test_cvtH2s_configured :
    (cvtH2s [(0x7C01, 0x7FC00000)] 0x7C01).1 = 0x7FC00000 ∧ (cvtH2s [(0x7C01, 0xFFC00000)] 0x7C01).1 = 0x7FC02000 := by
  decide

theorem test_cvtH2s_flags :
    (cvtH2s [] 0x03FF).2 = ⟨false, true⟩ ∧ (cvtH2s [] 0x7DFF).2 = ⟨true, false⟩ ∧
    (cvtH2s [] 0x7E01).2 = ⟨false, false⟩ ∧ (cvtH2s [] 0x0400).2 = ⟨false, false⟩ := by decide

/-! ### One step of each instruction -/

/-- V1 of section 2.4: the bits of the source above the elements do not matter. -/
theorem test_vexPs128 :
    leaves 0 (exec (.vexPs128 0 (.reg 1))
      (machine |> withV 1 (~~~0xFFFFFFFFFFFFFFFF ||| 0x3C003C003C003C00) |> withV 0 (~~~0))) =
      some (lanes [0x3F800000, 0x3F800000, 0x3F800000, 0x3F800000], 0x1F80) := by decide

/-- V2 of section 2.4: a misaligned memory source, and no DE for the denormal. -/
theorem test_vexPs128_memory :
    leaves 7 (exec (.vexPs128 7 (.mem (.base 0 .none)))
      (machine |> withG 0 0x2001 |> withMem 0x2001 [0x00, 0x3C, 0x00, 0xC0, 0xFF, 0x7B, 0x01, 0x00])) =
      some (lanes [0x3F800000, 0xC0000000, 0x477FE000, 0x33800000], 0x1F80) := by decide

/-- Program 1, step 2. -/
theorem test_vexPs256 :
    leaves 2 (exec (.vexPs256 2 (.reg 1))
      (machine |> withV 1 (lanes [0x3F800000, 0xC0000000, 0x477FE000, 0x33800000]))) =
      some (lanes [0x00000000, 0x3FF00000, 0x00000000, 0xC0000000, 0xC4000000, 0x40EFE000, 0x00000000, 0x3E700000],
        0x1F80) := by decide

/-- Program 2, step 2: zeroing, and IE from the active SNaN. -/
theorem test_evexPs128 :
    leaves 5 (exec (.evexPs128 5 ⟨2, true⟩ (.reg 4))
      (machine |> withK 2 0x05 |> withV 5 (~~~0) |> withV 4 (halves [0x3C00, 0x4000, 0x7C01, 0x0001, 0xFC00]))) =
      some (lanes [0x3F800000, 0, 0x7FC02000, 0], 0x1F81) := by decide

/-- E1 of section 2.5: an all-zero mask under merging keeps the lanes and still clears the bits above VL. -/
theorem test_evexPs128_no_lane :
    leaves 2 (exec (.evexPs128 2 ⟨1, false⟩ (.reg 1))
      (machine |> withK 1 0xFFF0 |> withV 1 (halves [0x7C01, 0x7C01, 0x7C01, 0x7C01]) |> withV 2 (~~~0))) =
      some (lanes [0xFFFFFFFF, 0xFFFFFFFF, 0xFFFFFFFF, 0xFFFFFFFF], 0x1F80) := by decide

/-- E4 of section 2.5: merging at 256 bits. -/
theorem test_evexPs256 :
    leaves 10 (exec (.evexPs256 10 ⟨6, false⟩ (.reg 11))
      (machine |> withK 6 0xFFA5 |>
        withV 10 (lanes [0x11111111, 0x22222222, 0x33333333, 0x44444444, 0x55555555, 0x66666666, 0x77777777,
          0x88888888, 0x99999999, 0xAAAAAAAA]) |>
        withV 11 (halves [0x3C00, 0x7C01, 0x4000, 0x4200, 0x4400, 0x4500, 0x4600, 0x4700]))) =
      some (lanes [0x3F800000, 0x22222222, 0x40000000, 0x44444444, 0x55555555, 0x40A00000, 0x77777777, 0x40E00000],
        0x1F80) := by decide

/-- E3 of section 2.5: source and destination are the same register. -/
theorem test_evexPs512 :
    leaves 9 (exec (.evexPs512 9 ⟨0, false⟩ (.reg 9))
      (machine |> withV 9 (halves [0x3C00, 0x4000, 0x4400, 0x4800, 0x4C00, 0x5000, 0x5400, 0x5800,
        0x3C00, 0x4000, 0x4400, 0x4800, 0x4C00, 0x5000, 0x5400, 0x5800, 0xFFFF, 0xFFFF]))) =
      some (lanes [0x3F800000, 0x40000000, 0x40800000, 0x41000000, 0x41800000, 0x42000000, 0x42800000, 0x43000000,
        0x3F800000, 0x40000000, 0x40800000, 0x41000000, 0x41800000, 0x42000000, 0x42800000, 0x43000000],
        0x1F80) := by decide

/-- Program 2, step 3: sae leaves MXCSR alone. -/
theorem test_evexPs512Sae :
    leaves 6 (exec (.evexPs512Sae 6 ⟨0, false⟩ 4)
      (machine |> withV 4 (halves [0x3C00, 0x4000, 0x7C01, 0x0001, 0xFC00, 0x7E00, 0x8000, 0x3555,
        0x0400, 0x7BFF, 0xBC00, 0x3800, 0x0200, 0xFBFF, 0x5640, 0xC500]))) =
      some (lanes [0x3F800000, 0x40000000, 0x7FC02000, 0x33800000, 0xFF800000, 0x7FC00000, 0x80000000, 0x3EAAA000,
        0x38800000, 0x477FE000, 0xBF800000, 0x3F000000, 0x38000000, 0xC77FE000, 0x42C80000, 0xC0A00000],
        0x1F80) := by decide

/-- X2 of section 2.6: Invalid and Denormal together, both masked. -/
theorem test_psx128 :
    leaves 0 (exec (.psx128 0 ⟨0, false⟩ (.reg 1)) (machine |> withV 1 (halves [0x0000, 0x3C00, 0x0001, 0x7C01]))) =
      some (lanes [0x00000000, 0x3F800000, 0x33800000, 0x7FC02000], 0x1F83) := by decide

/-- X6 of section 2.6: an unmasked Invalid faults with both flags set and the destination kept. -/
theorem test_psx128_raises_xm :
    raised 0 (exec (.psx128 0 ⟨0, false⟩ (.reg 1))
      (machine |> withV 1 (halves [0x0001, 0x7C01]) |> withV 0 0x77 |> (·.withMxcsr 0x1F00))) =
      some (.xm, machine.pc, 0x1F03, 0x77) := by decide

/-- The example of R189: an 8-bit displacement scaled by 16. -/
theorem test_psx256 :
    leaves 2 (exec (.psx256 2 ⟨0, false⟩ (.mem (.base 0 (.disp8 1))))
      (machine |> withG 0 0x4000 |> withMem 0x4010 [0x00, 0x3C, 0x00, 0x3C, 0x00, 0x3C, 0x00, 0x3C,
        0x00, 0x3C, 0x00, 0x3C, 0x00, 0x3C, 0x00, 0x3C])) =
      some (lanes [0x3F800000, 0x3F800000, 0x3F800000, 0x3F800000, 0x3F800000, 0x3F800000, 0x3F800000, 0x3F800000],
        0x1F80) := by decide

/-- The second example of R194: without sae the same elements set both flags. -/
theorem test_psx512 :
    leaves 7 (exec (.psx512 7 ⟨0, false⟩ (.reg 0)) (machine |> withV 0 (halves [0x0001, 0x7C01]))) =
      some (lanes [0x33800000, 0x7FC02000], 0x1F83) := by decide

/-- The example of R191. -/
theorem test_psx128Bcst :
    leaves 0 (exec (.psx128Bcst 0 ⟨0, false⟩ (.base 3 .none))
      (machine |> withG 3 0x9000 |> withMem 0x9000 [0x00, 0xC0])) =
      some (lanes [0xC0000000, 0xC0000000, 0xC0000000, 0xC0000000], 0x1F80) := by decide

/-- The example of R192: one denormal in every lane. -/
theorem test_psx256Bcst :
    leaves 6 (exec (.psx256Bcst 6 ⟨0, false⟩ (.base 3 .none))
      (machine |> withG 3 0x9000 |> withMem 0x9000 [0x01, 0x00])) =
      some (lanes [0x33800000, 0x33800000, 0x33800000, 0x33800000, 0x33800000, 0x33800000, 0x33800000, 0x33800000],
        0x1F82) := by decide

/-- The second encoding in the example of R193: displacement -128 times 2, zeroing. -/
theorem test_psx512Bcst :
    leaves 30 (exec (.psx512Bcst 30 ⟨7, true⟩ (.base 2 (.disp8 0x80)))
      (machine |> withG 2 0x9100 |> withK 7 0x8001 |> withV 30 (~~~0) |> withMem 0x9000 [0x00, 0x3C])) =
      some (lanes [0x3F800000, 0, 0, 0, 0, 0, 0, 0, 0, 0, 0, 0, 0, 0, 0, 0x3F800000], 0x1F80) := by decide

/-- X5 of section 2.6: sae with Invalid unmasked completes. -/
theorem test_psx512Sae :
    leaves 7 (exec (.psx512Sae 7 ⟨0, false⟩ 8) (machine |> withV 8 (halves [0x7C01]) |> (·.withMxcsr 0x1F00))) =
      some (lanes [0x7FC02000], 0x1F00) := by decide

/-! ### Faults, `pc`, the first step -/

/-- R38, R210: a #PF carries the address and leaves CR2 and everything else as it was. -/
theorem test_page_fault :
    (match exec (.vexPs128 1 (.mem (.base 0 .none))) { machine with regions := [⟨0, 1, .pageFault 4⟩], cr2 := 7 } with
      | .fault (.exception x _ t) => some (x, x.recordedCr2, t.cr2)
      | .next _ => none
      | .refused _ => none) = some (.pf 4 0, some 0, 7) := by decide

/-- R23: without AVX512F an EVEX form that names register 16 is #UD, one that names register 15 runs. -/
theorem test_sixteen_registers :
    raised 16 (exec (.psx128 16 ⟨0, false⟩ (.reg 0))
      { machine with features := ⟨true, false, true, true⟩, maxvl := .w256 }) = some (.ud, machine.pc, 0x1F80, 0) ∧
    completes (exec (.psx128 15 ⟨0, false⟩ (.reg 0))
      { machine with features := ⟨true, false, true, true⟩, maxvl := .w256 }) = true := by decide

/-- F3 of section 2.7: the base register tells #SS(0) from #GP(0). -/
theorem test_non_canonical :
    raised 1 (exec (.vexPs128 1 (.mem (.base 0 .none))) (machine |> withG 0 0x800000000000)) =
      some (.gp, machine.pc, 0x1F80, 0) ∧
    raised 0 (exec (.vexPs128 0 (.mem (.base 5 (.disp8 0)))) (machine |> withG 5 0x800000000000)) =
      some (.ss, machine.pc, 0x1F80, 0) := by decide

/-- R147: with CR4.OSXMMEXCPT = 0 an unmasked exception is #UD. -/
theorem test_unmasked_without_osxmmexcpt :
    raised 0 (exec (.vexPs128 0 (.reg 1))
      { machine |> withV 1 (halves [0x7C01]) |> withV 0 0x1234 |> (·.withMxcsr 0x1F00) with cr4 := 0x40000 }) =
      some (.ud, machine.pc, 0x1F01, 0x1234) := by decide

/-- Program 5: the same form with `MAXVL = 256`. -/
theorem test_maxvl_256 :
    raised 0 (exec (.evexPs512 0 ⟨0, false⟩ (.reg 1)) { machine with maxvl := .w256 }) =
      some (.ud, machine.pc, 0x1F80, 0) := by decide

/-- R241: the first step of a word placed at reset runs the instruction, at a `pc` 7 bytes on (R31). -/
theorem test_first_step :
    (match step (State.reset.withFetchWord 56 0x015013287DF662) with
      | .next t => some (t.pc - State.reset.pc, t.mxcsr)
      | .fault _ => none
      | .refused _ => none) = some (7, 0x1F80) := by decide

/-- R241: at reset every form is #UD. -/
theorem test_reset_ud : raised 0 (exec (.vexPs128 0 (.reg 1)) State.reset) = some (.ud, 0xFFFFFFF0, 0x1F80, 0) := by
  decide

/-! ### States and operands that meet the hypotheses of each statement -/

/-- `Ready`, as a computation. -/
def readyNow (i : Instr) (s : State) : Bool :=
  s.mode == .mode64 && s.osxsave && s.xcr0Enables i.form.vex && i.form.available s.features &&
    decide (i.form.vl ≤ s.maxvl.bits) && registersExist s.features i.dest i.source && !s.ts

theorem ready_of_readyNow {i : Instr} {s : State} (h : readyNow i s = true) : Ready i s := by
  simp only [readyNow, Bool.and_eq_true, beq_iff_eq, decide_eq_true_eq, Bool.not_eq_true'] at h
  exact ⟨h.1.1.1.1.1.1, h.1.1.1.1.1.2, h.1.1.1.1.2, h.1.1.1.2, h.1.1.2, h.1.2, h.2⟩

/-- `Readable` of a memory operand where no region is set and alignment checking is off. -/
def readableNow (i : Instr) (s : State) (m : MemOp) : Bool :=
  canonicalOperand s.la57 (i.address s m) i.readBytes && s.regions.isEmpty && !s.alignmentChecking

theorem readable_of_readableNow {i : Instr} {s : State} {m : MemOp} (hm : i.source = .mem m)
    (h : readableNow i s m = true) : Readable i s := by
  simp only [readableNow, Bool.and_eq_true, List.isEmpty_iff, Bool.not_eq_true'] at h
  simp only [Readable, hm]
  exact ⟨h.1.1, fun j _ => by simp [h.1.2, regionAt], Or.inr (Or.inl h.2)⟩

theorem readable_reg {i : Instr} {s : State} {n : VReg} (hm : i.source = .reg n) : Readable i s := by
  simp [Readable, hm]

/-- With IM and DM set nothing traps (R145). -/
theorem not_trapping_of_masked {i : Instr} {s : State} (hi : mxcsrIM s.mxcsr = true) (hd : mxcsrDM s.mxcsr = true) :
    ¬ Trapping i s := by
  simp [Trapping, hi, hd]

/-- An SNaN in element 0 of V1, a denormal in element 1, and both bytes at 9000H, G3 pointing there. -/
def loaded : State :=
  machine |> withV 1 (halves [0x7C01, 0x0001]) |> withG 3 0x9000 |> withMem 0x9000 [0x01, 0x7C, 0x01, 0x00]

/-- A memory operand with a base, and one with index, scale and displacement. -/
def atG3 : MemOp := .base 3 .none

/-- Under the hypotheses of `Runs`. -/
def Clear (i : Instr) (s : State) : Prop := Ready i s ∧ Readable i s ∧ ¬ Trapping i s

theorem clear_reg {i : Instr} {s : State} {n : VReg} (hm : i.source = .reg n) (h : readyNow i s = true)
    (hi : mxcsrIM s.mxcsr = true) (hd : mxcsrDM s.mxcsr = true) : Clear i s :=
  ⟨ready_of_readyNow h, readable_reg hm, not_trapping_of_masked hi hd⟩

theorem clear_mem {i : Instr} {s : State} {m : MemOp} (hm : i.source = .mem m) (h : readyNow i s = true)
    (hr : readableNow i s m = true) (hi : mxcsrIM s.mxcsr = true) (hd : mxcsrDM s.mxcsr = true) : Clear i s :=
  ⟨ready_of_readyNow h, readable_of_readableNow hm hr, not_trapping_of_masked hi hd⟩

theorem witness_DecodeEncodeRoundTrip :
    Instr.wf (.vexPs256 15 (.mem (.sib 13 12 1 (.disp8 0)))) = true ∧ Instr.wf (.evexPs512Sae 31 ⟨7, true⟩ 31) = true ∧
    Instr.wf (.psx512Bcst 23 ⟨0, false⟩ (.sibNoBase 4 0 0xFFFFFFFF)) = true := by decide

/-- The shortest and the longest encoding of each prefix. -/
theorem witness_DecodeConsumesLength :
    decode [0xC4, 0xE2, 0x79, 0x13, 0xC1] = .instr (.vexPs128 0 (.reg 1)) [] ∧
    decode [0xC4, 0xE2, 0x79, 0x13, 0x2C, 0x25, 0x78, 0x56, 0x34, 0x12] =
      .instr (.vexPs128 5 (.mem (.sibNoBase 4 0 0x12345678))) [] ∧
    decode [0x62, 0xF2, 0x7D, 0x08, 0x13, 0xC1, 0x90] = .instr (.evexPs128 0 ⟨0, false⟩ (.reg 1)) [0x90] ∧
    decode [0x62, 0x26, 0x7D, 0x4F, 0x13, 0xB4, 0xF5, 0x00, 0x00, 0x00, 0x10] =
      .instr (.psx512 30 ⟨7, false⟩ (.mem (.sib 5 14 3 (.disp32 0x10000000)))) [] := by decide

theorem witness_DecodedInstructionIsWellFormed :
    decode [0xC4, 0xE2, 0x79, 0x13, 0xC1] = .instr (.vexPs128 0 (.reg 1)) [] := by decide

/-- What `fetch` answers, as data that can be compared. -/
def fetched (s : State) : Option (List Byte) := (fetch s).toOption

theorem fetch_of_fetched {s : State} {bytes : List Byte} (h : fetched s = some bytes) : fetch s = .ok bytes := by
  unfold fetched at h
  cases hf : fetch s with
  | ok b => simp [hf, Except.toOption] at h; rw [h]
  | error r => simp [hf, Except.toOption] at h

/-- `W = 1`, and stored vvvv 1110b. -/
theorem witness_VexReservedFieldRaisesUd :
    LaunchOk (machine.withText [0xC4, 0xE2, 0xF9, 0x13, 0xC1]) ∧
    fetched (machine.withText [0xC4, 0xE2, 0xF9, 0x13, 0xC1]) = some [0xC4, 0xE2, 0xF9, 0x13, 0xC1] ∧
    fetched (machine.withText [0xC4, 0xE2, 0x71, 0x13, 0xC1]) = some [0xC4, 0xE2, 0x71, 0x13, 0xC1] ∧
    (0xE2 : Byte).extractLsb' 0 5 = 2#5 ∧ (0xF9 : Byte).extractLsb' 0 2 = 1#2 ∧ (0x71 : Byte).extractLsb' 0 2 = 1#2 ∧
    (0xF9 : Byte).extractLsb' 7 1 = 1#1 ∧ (0x71 : Byte).extractLsb' 3 4 ≠ 15#4 :=
  ⟨launchRefusal_none.1 (by decide), by decide⟩

/-- P0 bit 3, P1 bit 2, `W = 1`, stored vvvv 1110b, stored V' 0. -/
theorem witness_EvexReservedFieldRaisesUd :
    LaunchOk (machine.withText [0x62, 0xFA, 0x7D, 0x08, 0x13, 0xC1]) ∧
    fetched (machine.withText [0x62, 0xFA, 0x7D, 0x08, 0x13, 0xC1]) = some [0x62, 0xFA, 0x7D, 0x08, 0x13, 0xC1] ∧
    fetched (machine.withText [0x62, 0xF2, 0x79, 0x08, 0x13, 0xC1]) = some [0x62, 0xF2, 0x79, 0x08, 0x13, 0xC1] ∧
    fetched (machine.withText [0x62, 0xF6, 0x75, 0x00, 0x13, 0xC1]) = some [0x62, 0xF6, 0x75, 0x00, 0x13, 0xC1] ∧
    (0xFA : Byte).extractLsb' 3 1 = 1#1 ∧ (0x79 : Byte).extractLsb' 2 1 = 0#1 ∧ (0xF2 : Byte).extractLsb' 0 3 = 2#3 ∧
    (0xF6 : Byte).extractLsb' 0 3 = 6#3 ∧ (0x75 : Byte).extractLsb' 0 2 = 1#2 ∧ (0xFD : Byte).extractLsb' 7 1 = 1#1 ∧
    (0x75 : Byte).extractLsb' 3 4 ≠ 15#4 ∧ (0x00 : Byte).extractLsb' 3 1 = 0#1 :=
  ⟨launchRefusal_none.1 (by decide), by decide⟩

/-- `L'L = 11b` with a register and b = 0, with memory and b = 1, and b = 1 with memory in map 2. -/
theorem witness_EvexLengthOrBroadcastRaisesUd :
    LaunchOk (machine.withText [0x62, 0xF6, 0x7D, 0x68, 0x13, 0xC1]) ∧
    fetched (machine.withText [0x62, 0xF6, 0x7D, 0x68, 0x13, 0xC1]) = some [0x62, 0xF6, 0x7D, 0x68, 0x13, 0xC1] ∧
    fetched (machine.withText [0x62, 0xF6, 0x7D, 0x78, 0x13, 0x08]) = some [0x62, 0xF6, 0x7D, 0x78, 0x13, 0x08] ∧
    fetched (machine.withText [0x62, 0xF2, 0x7D, 0x18, 0x13, 0x08]) = some [0x62, 0xF2, 0x7D, 0x18, 0x13, 0x08] ∧
    (0xF6 : Byte).extractLsb' 0 3 = 6#3 ∧ (0xF2 : Byte).extractLsb' 0 3 = 2#3 ∧ (0x7D : Byte).extractLsb' 0 2 = 1#2 ∧
    (0x68 : Byte).extractLsb' 5 2 = 3#2 ∧ (0x68 : Byte).extractLsb' 4 1 = 0#1 ∧ (0x78 : Byte).extractLsb' 5 2 = 3#2 ∧
    (0x18 : Byte).extractLsb' 4 1 = 1#1 ∧ (0x08 : Byte).extractLsb' 6 2 ≠ 3#2 :=
  ⟨launchRefusal_none.1 (by decide), by decide⟩

/-- One byte string for each clause of the statement. -/
theorem witness_RefusedEncodings :
    (0xC5 : Byte) ≠ 0xC4 ∧ (0xC5 : Byte) ≠ 0x62 ∧
    (0xE1 : Byte).extractLsb' 0 5 ≠ 2#5 ∧ (0x7A : Byte).extractLsb' 0 2 ≠ 1#2 ∧ (0x14 : Byte) ≠ 0x13 ∧
    ((0xF5 : Byte).extractLsb' 3 1 = 0#1 ∧ (0x7D : Byte).extractLsb' 2 1 = 1#1 ∧ (0xF5 : Byte).extractLsb' 0 3 ≠ 2#3 ∧
      (0xF5 : Byte).extractLsb' 0 3 ≠ 6#3) ∧
    ((0xF2 : Byte).extractLsb' 3 1 = 0#1 ∧ (0xF2 : Byte).extractLsb' 0 3 = 2#3 ∧ (0x88 : Byte).extractLsb' 3 1 = 1#1 ∧
      (0x88 : Byte).extractLsb' 7 1 = 1#1 ∧ (0x88 : Byte).extractLsb' 0 3 = 0#3 ∧ (0x88 : Byte).extractLsb' 4 1 = 0#1 ∧
      (0x88 : Byte).extractLsb' 5 2 ≠ 3#2) ∧
    ((0x98 : Byte).extractLsb' 7 1 = 1#1 ∧ (0x98 : Byte).extractLsb' 0 3 = 0#3 ∧ (0x98 : Byte).extractLsb' 4 1 = 1#1 ∧
      (0x98 : Byte).extractLsb' 3 1 = 1#1 ∧ (0x98 : Byte).extractLsb' 5 2 = 0#2 ∧ (0xD8 : Byte).extractLsb' 5 2 = 2#2 ∧
      (0xF6 : Byte).extractLsb' 0 3 = 6#3 ∧ (0x08 : Byte).extractLsb' 6 2 ≠ 3#2) ∧
    ((0xC1 : Byte).extractLsb' 6 2 = 3#2 ∧ (0x38 : Byte).extractLsb' 3 1 = 1#1 ∧ (0x38 : Byte).extractLsb' 4 1 = 1#1 ∧
      (0x38 : Byte).extractLsb' 5 2 = 1#2 ∧ (0x78 : Byte).extractLsb' 5 2 = 3#2) := by decide

/-- R195: the two encodings with P2 = 18H. -/
theorem witness_ModSelectsSaeOrBroadcast :
    (0xF6 : Byte).extractLsb' 0 3 = 6#3 ∧ (0x18 : Byte).extractLsb' 4 1 = 1#1 ∧
    decode [0x62, 0xF6, 0x7D, 0x18, 0x13, 0xF8] = .instr (.psx512Sae 7 ⟨0, false⟩ 0) [] ∧
    (0xF8 : Byte).extractLsb' 6 2 = 3#2 ∧
    decode [0x62, 0xF6, 0x7D, 0x18, 0x13, 0x03] = .instr (.psx128Bcst 0 ⟨0, false⟩ (.base 3 .none)) [] ∧
    (0x03 : Byte).extractLsb' 6 2 ≠ 3#2 := by decide

theorem witness_ZeroAndInfinityConvert :
    halfFrac 0x8000 = 0#10 ∧ halfExp 0x8000 = 0#5 ∧ halfFrac 0x7C00 = 0#10 ∧ halfExp 0x7C00 = 31#5 := by decide

/-- The smallest and the largest exponent of a normal. -/
theorem witness_NormalRebiased : (halfExp 0x0400).toNat = 1 ∧ (halfExp 0xFBFF).toNat = 30 := by decide

/-- The smallest and the largest denormal. -/
theorem witness_DenormalNormalised :
    halfExp 0x0001 = 0#5 ∧ halfFrac 0x0001 ≠ 0#10 ∧ halfExp 0x83FF = 0#5 ∧ halfFrac 0x83FF ≠ 0#10 := by decide

theorem witness_NaNQuieted : isHalfNaN 0x7C01 = true ∧ isHalfNaN 0xFFFF = true := by decide

theorem witness_SignCopied : isHalfNaN 0xFC00 = false := by decide

theorem witness_ConversionIsExact : halfExp 0x8001 ≠ 31#5 ∧ halfExp 0x7BFF ≠ 31#5 := by decide

theorem witness_ConversionInjectiveOffNaN :
    isHalfNaN 0x7C00 = false ∧ (cvtH2s [] 0x7C00).1 = (cvtH2s [(0x7C01, 0x7FC00000)] 0x7C00).1 := by decide

theorem witness_NoDenormalResult : singleExp (cvtH2s [] 0x8000).1 = 0#8 := by decide

theorem witness_VexFormsRun :
    Clear (.vexPs128 0 (.reg 1)) loaded ∧ Clear (.vexPs128 0 (.mem atG3)) loaded ∧
    Clear (.vexPs256 15 (.reg 1)) loaded ∧ Clear (.vexPs256 15 (.mem atG3)) loaded :=
  ⟨clear_reg rfl (by decide) (by decide) (by decide), clear_mem rfl (by decide) (by decide) (by decide) (by decide),
   clear_reg rfl (by decide) (by decide) (by decide), clear_mem rfl (by decide) (by decide) (by decide) (by decide)⟩

theorem witness_EvexPsFormsRun :
    Clear (.evexPs128 0 ⟨1, true⟩ (.reg 1)) loaded ∧ Clear (.evexPs128 0 ⟨0, false⟩ (.mem atG3)) loaded ∧
    Clear (.evexPs256 16 ⟨2, false⟩ (.reg 1)) loaded ∧ Clear (.evexPs256 16 ⟨7, true⟩ (.mem atG3)) loaded ∧
    Clear (.evexPs512 31 ⟨3, false⟩ (.reg 1)) loaded ∧ Clear (.evexPs512 31 ⟨0, false⟩ (.mem atG3)) loaded :=
  ⟨clear_reg rfl (by decide) (by decide) (by decide), clear_mem rfl (by decide) (by decide) (by decide) (by decide),
   clear_reg rfl (by decide) (by decide) (by decide), clear_mem rfl (by decide) (by decide) (by decide) (by decide),
   clear_reg rfl (by decide) (by decide) (by decide), clear_mem rfl (by decide) (by decide) (by decide) (by decide)⟩

theorem witness_PsxFormsRun :
    Clear (.psx128 0 ⟨1, true⟩ (.reg 1)) loaded ∧ Clear (.psx128 0 ⟨0, false⟩ (.mem atG3)) loaded ∧
    Clear (.psx256 16 ⟨2, false⟩ (.reg 1)) loaded ∧ Clear (.psx256 16 ⟨7, true⟩ (.mem atG3)) loaded ∧
    Clear (.psx512 31 ⟨3, false⟩ (.reg 1)) loaded ∧ Clear (.psx512 31 ⟨0, false⟩ (.mem atG3)) loaded :=
  ⟨clear_reg rfl (by decide) (by decide) (by decide), clear_mem rfl (by decide) (by decide) (by decide) (by decide),
   clear_reg rfl (by decide) (by decide) (by decide), clear_mem rfl (by decide) (by decide) (by decide) (by decide),
   clear_reg rfl (by decide) (by decide) (by decide), clear_mem rfl (by decide) (by decide) (by decide) (by decide)⟩

theorem witness_PsxBroadcastFormsRun :
    Clear (.psx128Bcst 0 ⟨0, false⟩ atG3) loaded ∧ Clear (.psx256Bcst 16 ⟨1, true⟩ atG3) loaded ∧
    Clear (.psx512Bcst 31 ⟨7, false⟩ atG3) loaded :=
  ⟨clear_mem rfl (by decide) (by decide) (by decide) (by decide),
   clear_mem rfl (by decide) (by decide) (by decide) (by decide),
   clear_mem rfl (by decide) (by decide) (by decide) (by decide)⟩

/-- The sae forms with Invalid and Denormal unmasked. -/
theorem witness_SaeFormsRun :
    Ready (.evexPs512Sae 0 ⟨0, false⟩ 1) (loaded.withMxcsr 0) ∧
    Ready (.psx512Sae 0 ⟨0, false⟩ 1) (loaded.withMxcsr 0) :=
  ⟨ready_of_readyNow (by decide), ready_of_readyNow (by decide)⟩

theorem witness_MaskedResponseCompletes :
    Ready (.psx128Bcst 0 ⟨0, false⟩ atG3) loaded ∧ Readable (.psx128Bcst 0 ⟨0, false⟩ atG3) loaded ∧
    mxcsrIM loaded.mxcsr = true ∧ mxcsrDM loaded.mxcsr = true :=
  ⟨ready_of_readyNow (by decide), readable_of_readableNow rfl (by decide), by decide, by decide⟩

/-- `K[2] = FFF0H`: no bit below KL = 4; the MXCSR masks are clear. -/
theorem witness_NoActiveLaneSignalsNothing :
    Ready (.psx128 0 ⟨2, false⟩ (.reg 1)) (withK 2 0xFFF0 (loaded.withMxcsr 0)) ∧
    Readable (.psx128 0 ⟨2, false⟩ (.reg 1)) (withK 2 0xFFF0 (loaded.withMxcsr 0)) ∧
    ∀ j, j < 4 → Instr.active (.psx128 0 ⟨2, false⟩ (.reg 1)) (withK 2 0xFFF0 (loaded.withMxcsr 0)) j = false :=
  ⟨ready_of_readyNow (by decide), readable_reg rfl, by decide⟩

theorem witness_UnmaskedEvexEqualsVex :
    Ready (.vexPs128 0 (.reg 1)) loaded ∧ Ready (.vexPs256 0 (.reg 1)) loaded ∧
    (∃ t, exec (.evexPs128 0 ⟨0, false⟩ (.reg 1)) loaded = .next t) ∧
    ∃ t, exec (.evexPs256 0 ⟨0, true⟩ (.reg 1)) loaded = .next t :=
  ⟨ready_of_readyNow (by decide), ready_of_readyNow (by decide), completes_iff (by decide), completes_iff (by decide)⟩

theorem witness_PsxMatchesPs :
    Ready (.evexPs128 0 ⟨0, false⟩ (.reg 1)) loaded ∧ Ready (.evexPs256 0 ⟨0, false⟩ (.mem atG3)) loaded ∧
    Ready (.evexPs512 0 ⟨1, true⟩ (.reg 1)) loaded ∧
    (∃ t, exec (.psx128 0 ⟨0, false⟩ (.reg 1)) loaded = .next t) ∧
    (∃ t, exec (.psx256 0 ⟨0, false⟩ (.mem atG3)) loaded = .next t) ∧
    ∃ t, exec (.psx512 0 ⟨1, true⟩ (.reg 1)) loaded = .next t :=
  ⟨ready_of_readyNow (by decide), ready_of_readyNow (by decide), ready_of_readyNow (by decide),
   completes_iff (by decide), completes_iff (by decide), completes_iff (by decide)⟩

theorem witness_SaeMatchesPlain :
    (∃ t, exec (.evexPs512 0 ⟨0, false⟩ (.reg 1)) loaded = .next t) ∧
    ∃ t, exec (.psx512 0 ⟨0, false⟩ (.reg 1)) loaded = .next t :=
  ⟨completes_iff (by decide), completes_iff (by decide)⟩

/-- DAZ, RC and FTZ all flipped. -/
theorem witness_DazRcFtzIgnored :
    (∀ b, b ≠ 6 → b ≠ 13 → b ≠ 14 → b ≠ 15 → (0xE040 : BitVec 32).getLsbD b = false) ∧
    ∃ t, exec (.psx128 0 ⟨0, false⟩ (.reg 1)) loaded = .next t := by
  refine ⟨fun b h6 h13 h14 h15 => ?_, completes_iff (by decide)⟩
  by_cases hb : b < 32
  · interval_cases b <;> first | decide | contradiction
  · exact BitVec.getLsbD_of_ge _ _ (by omega)

/-- `K[1]` with every bit from KL up flipped, and `K[0]` set. -/
theorem witness_MaskBitsAboveKlIgnored :
    (∀ j, j < 4 → (({ loaded with k := (loaded.k.set 1 0xFFFFFFFFFFFFFFF0).set 0 5 } : State).readK 1).getLsbD j =
      (loaded.readK 1).getLsbD j) ∧
    ∃ t, exec (.psx128 0 ⟨1, false⟩ (.reg 1)) loaded = .next t :=
  ⟨by decide, completes_iff (by decide)⟩

/-- The source register with every bit from 16*KL up flipped. -/
theorem witness_SourceBitsAboveIgnored :
    Instr.source (.psx128 0 ⟨0, false⟩ (.reg 1)) = .reg 1 ∧ (1 : VReg) ≠ 0 ∧
    (∀ b, b < 64 → (loaded.readV 1 ||| (~~~(0 : VecWord) <<< 64)).getLsbD b = (loaded.readV 1).getLsbD b) ∧
    ∃ t, exec (.psx128 0 ⟨0, false⟩ (.reg 1)) loaded = .next t := by
  refine ⟨rfl, by decide, fun b hb => ?_, completes_iff (by decide)⟩
  rw [BitVec.getLsbD_or, BitVec.getLsbD_shiftLeft, decide_eq_true hb]
  simp only [Bool.not_true, Bool.and_false, Bool.false_and, Bool.or_false]

/-- A text of one instruction at `pc`, and its step. -/
theorem witness_StepFrame :
    ∃ t, step (loaded.withText [0x62, 0xF6, 0x7D, 0x08, 0x13, 0xC1]) = .next t := completes_iff (by decide)

theorem witness_StepKeepsInvariant :
    State.Inv (machine.withText [0x62, 0xF6, 0x7D, 0x08, 0x13, 0xC1]) ∧
    ∃ t, step (machine.withText [0x62, 0xF6, 0x7D, 0x08, 0x13, 0xC1]) = .next t := by
  refine ⟨⟨by decide, fun n b hb => BitVec.getLsbD_of_ge _ _ hb, by decide, by decide,
    fun n hn => absurd n.isLt (Nat.not_lt.2 hn), by decide⟩, completes_iff (by decide)⟩

theorem witness_StepAdvancesPc :
    ∃ t, step (loaded.withText [0xC4, 0xE2, 0x79, 0x13, 0x03]) = .next t := completes_iff (by decide)

/-- The 32 bytes of the longest operand, read to the end. -/
theorem witness_ReadIsLittleEndian :
    loaded.memRead 0x9000 32 = 0x00017C01 ∧ loaded.readByte 0x9001 = 0x7C ∧ loaded.readByte 0x9002 = 1 := by decide

/-- One byte before and one byte after the operand changed. -/
theorem witness_MemoryOutsideOperandIgnored :
    (∀ j, j < Instr.readBytes (.vexPs128 0 (.mem atG3)) →
      ({ loaded with mem := (loaded.mem.write 0x8FFF 7).write 0x9008 9 } : State).readByte
          (Instr.address (.vexPs128 0 (.mem atG3)) loaded atG3 + BitVec.ofNat 64 j) =
        loaded.readByte (Instr.address (.vexPs128 0 (.mem atG3)) loaded atG3 + BitVec.ofNat 64 j)) ∧
    ∃ t, exec (.vexPs128 0 (.mem atG3)) loaded = .next t :=
  ⟨by decide, completes_iff (by decide)⟩

/-- Index 12 is an index, index 4 is none. -/
theorem witness_MemoryOperandAddress :
    Instr.address (.evexPs256 0 ⟨0, false⟩ (.mem (.sib 4 4 0 (.disp8 1)))) (withG 4 0x100 loaded)
      (.sib 4 4 0 (.disp8 1)) = 0x110 ∧
    Instr.address (.evexPs256 0 ⟨0, false⟩ (.mem (.sib 3 12 2 (.disp8 0xFF)))) (withG 12 0x10 loaded)
      (.sib 3 12 2 (.disp8 0xFF)) = 0x9030 ∧
    Instr.address (.vexPs128 0 (.mem (.sibNoBase 4 0 0xFFFFFFFF))) loaded (.sibNoBase 4 0 0xFFFFFFFF) = ~~~0 := by decide

theorem witness_ReadAfterWrite : Memory.wf State.reset.mem = true ∧ (0xFFFFFFFFFFFFFFFF : Word) ≠ 0 := by decide

/-- Clause 1: the operand ends one byte past 2^64. Clause 2: its last byte is the first that is not canonical. -/
theorem witness_NonCanonicalOperandFaults :
    Ready (.vexPs128 0 (.mem atG3)) machine ∧ Instr.source (.vexPs128 0 (.mem atG3)) = .mem atG3 ∧
    2 ^ 64 < (Instr.address (.vexPs128 0 (.mem atG3)) (withG 3 0xFFFFFFFFFFFFFFF9 machine) atG3).toNat + 8 ∧
    canonical (withG 3 0x7FFFFFFFFFF9 machine).la57
      (Instr.address (.vexPs128 0 (.mem atG3)) (withG 3 0x7FFFFFFFFFF9 machine) atG3 + BitVec.ofNat 64 7) = false :=
  ⟨ready_of_readyNow (by decide), rfl, by decide, by decide⟩

/-- The last byte of the operand is the first of a region that refuses it. -/
theorem witness_PageFaultBeforeFlags :
    let s : State := { loaded with regions := [⟨0x9007, 0x1000, .pageFault 4⟩] }
    Ready (.vexPs128 0 (.mem atG3)) s ∧
    canonicalOperand s.la57 (Instr.address (.vexPs128 0 (.mem atG3)) s atG3) 8 = true ∧
    regionAt s.regions (Instr.address (.vexPs128 0 (.mem atG3)) s atG3 + BitVec.ofNat 64 7) = some (.pageFault 4) ∧
    ∀ l, l < 7 → regionAt s.regions (Instr.address (.vexPs128 0 (.mem atG3)) s atG3 + BitVec.ofNat 64 l) = none :=
  ⟨ready_of_readyNow (by decide), by decide, by decide, by decide⟩

/-- The last byte of the operand lies in a device. -/
theorem witness_DeviceOperandRefused :
    let s : State := { loaded with regions := [⟨0x9007, 0x1000, .device⟩] }
    Ready (.vexPs128 0 (.mem atG3)) s ∧
    canonicalOperand s.la57 (Instr.address (.vexPs128 0 (.mem atG3)) s atG3) 8 = true ∧ s.alignmentChecking = false ∧
    regionAt s.regions (Instr.address (.vexPs128 0 (.mem atG3)) s atG3 + BitVec.ofNat 64 7) = some .device ∧
    ∀ l, l < 7 → regionAt s.regions (Instr.address (.vexPs128 0 (.mem atG3)) s atG3 + BitVec.ofNat 64 l) = none :=
  ⟨ready_of_readyNow (by decide), by decide, by decide, by decide, by decide⟩

/-- One state for each clause. -/
theorem witness_DisabledFormRaisesUd :
    State.reset.mode = .realAddress ∧
    ({ State.reset with cr0 := 1, rflags := 0x20002 } : State).mode = .virtual8086 ∧
    machine.mode = .mode64 ∧ ({ machine with cr4 := 0x400 } : State).osxsave = false ∧
    ({ machine with xcr0 := 7 } : State).xcr0Enables false = false ∧
    Form.available .vex128 (⟨false, true, true, true⟩ : Features) = false ∧
    registersExist ⟨true, false, true, true⟩ 16 (.reg 0) = false ∧
    MaxVl.bits .w256 < Form.vl .evex512 := by decide

theorem witness_OtherModesRefused :
    ({ State.reset with cr0 := 1 } : State).mode = .protected32 ∧
    ({ machine with csL := false } : State).mode = .compatibility ∧
    ({ machine with smm := true } : State).mode = .systemManagement := by decide

theorem witness_TaskSwitchedRaisesNm :
    let s : State := { machine with cr0 := 9 }
    s.mode = .mode64 ∧ s.osxsave = true ∧ s.xcr0Enables true = true ∧ Form.available .vex128 s.features = true ∧
    Form.vl .vex128 ≤ s.maxvl.bits ∧ registersExist s.features 15 (.reg 0) = true ∧ s.ts = true := by decide

/-- Invalid alone on a VEX form, and Denormal alone on a PSX form, each unmasked. -/
theorem witness_UnmaskedExceptionRaisesXm :
    (Ready (.vexPs128 0 (.reg 1)) (loaded.withMxcsr 0x1F00) ∧ Trapping (.vexPs128 0 (.reg 1)) (loaded.withMxcsr 0x1F00)) ∧
    Ready (.psx128 0 ⟨0, false⟩ (.reg 1)) (loaded.withMxcsr 0x1E80) ∧
    Trapping (.psx128 0 ⟨0, false⟩ (.reg 1)) (loaded.withMxcsr 0x1E80) := by
  refine ⟨⟨ready_of_readyNow (by decide), rfl, Or.inl ⟨⟨0, ?_⟩, ?_⟩⟩, ready_of_readyNow (by decide), rfl,
    Or.inr ⟨⟨rfl, 1, ?_⟩, ?_⟩⟩ <;> decide

/-- A VEX form with alignment checking on, and an EVEX form with it off. -/
theorem witness_AlignmentCheckNeverRaised :
    ({ machine with cr0 := 0x40001, rflags := 0x40002, cpl := 3 } : State).alignmentChecking = true ∧
    Form.vex .vex128 = true ∧ machine.alignmentChecking = false := by decide

theorem witness_FaultLeavesState :
    ∃ x pc after, exec (.vexPs128 0 (.reg 1)) (loaded.withMxcsr 0x1F00) = .fault (.exception x pc after) := by
  have h : (raised 0 (exec (.vexPs128 0 (.reg 1)) (loaded.withMxcsr 0x1F00))).isSome = true := by decide
  generalize exec (.vexPs128 0 (.reg 1)) (loaded.withMxcsr 0x1F00) = r at h
  cases r with
  | next t => exact Bool.noConfusion h
  | fault f => cases f; exact ⟨_, _, _, rfl⟩
  | refused r => exact Bool.noConfusion h

/-- The reason of a refusal. -/
def refusal : Result → Option Refusal
  | .refused r => some r
  | .next _ => none
  | .fault _ => none

theorem witness_OnlyModeAndDeviceRefused :
    refusal (exec (.vexPs128 0 (.reg 1)) { machine with csL := false }) = some (.modeOutOfScope .compatibility) ∧
    refusal (exec (.vexPs128 0 (.mem atG3)) { loaded with regions := [⟨0x9007, 1, .device⟩] }) =
      some (.deviceOperand 0x9007) := by decide

theorem witness_StepRunsDecoded :
    LaunchOk (loaded.withText [0xC4, 0xE2, 0x79, 0x13, 0x03]) ∧
    fetched (loaded.withText [0xC4, 0xE2, 0x79, 0x13, 0x03]) = some [0xC4, 0xE2, 0x79, 0x13, 0x03] ∧
    decode [0xC4, 0xE2, 0x79, 0x13, 0x03] = .instr (.vexPs128 0 (.mem (.base 3 .none))) [] ∧
    (loaded.withText [0xC4, 0xE2, 0x79, 0x13, 0x03]).xcr0Enables true = true :=
  ⟨launchRefusal_none.1 (by decide), by decide⟩

/-- A launch that each part of the common premise fails for, in 64-bit mode, with text to refuse; and the bytes of an EVEX
form under XCR0 = 7. -/
theorem witness_StepRefusesBrokenLaunch :
    let s := machine.withText [0x62, 0xF6, 0x7D, 0x08, 0x13, 0xC1]
    s.mode = .mode64 ∧ fetched s = some [0x62, 0xF6, 0x7D, 0x08, 0x13, 0xC1] ∧
    refusal (step { s with cr0 := s.cr0 ||| 8 }) = some (.launchRefused .tsClear) ∧
    refusal (step { s with cr4 := 0x400 }) = some (.launchRefused .osxsave) ∧
    refusal (step { s with cr4 := 0x40000 }) = some (.launchRefused .osxmmexcpt) ∧
    refusal (step { s with cr0 := s.cr0 ||| 0x40000, rflags := 0x40002, cpl := 3 }) =
      some (.launchRefused .alignmentOff) ∧
    refusal (step { s with mxcsr := 0x11F80 }) = some (.launchRefused .mxcsrReserved) ∧
    LaunchOk { s with xcr0 := 7 } ∧
    decode [0x62, 0xF6, 0x7D, 0x08, 0x13, 0xC1] = .instr (.psx128 0 ⟨0, false⟩ (.reg 1)) [] ∧
    ({ s with xcr0 := 7 } : State).xcr0Enables false = false ∧
    refusal (step { s with xcr0 := 7 }) = some (.launchRefused (.xcr0 false)) :=
  ⟨by decide, by decide, by decide, by decide, by decide, by decide, by decide, launchRefusal_none.1 (by decide),
    by decide, by decide, by decide⟩

/-- A VEX form still runs under XCR0 = 7. -/
theorem witness_StepMeetsLaunchPremise :
    ∃ t, step { machine.withText [0xC4, 0xE2, 0x79, 0x13, 0xC1] with xcr0 := 7 } = .next t := completes_iff (by decide)

/-- At the end of the text, and one byte past it. -/
theorem witness_RunEndsAtEndOfText :
    ({ machine.withText [0xC4] with pc := machine.pc + 1 } : State).finished = true ∧
    ({ machine.withText [0xC4] with pc := machine.pc + 2 } : State).textLen <
      ({ machine.withText [0xC4] with pc := machine.pc + 2 } : State).textOffset := by decide

/-- The shortest text and the longest. -/
theorem witness_PlacedTextIsFetched :
    machine.mem.wf = true ∧ fetched (machine.withText [0xC4]) = some [0xC4] ∧
    fetched (machine.withText [1, 2, 3, 4, 5, 6, 7, 8, 9, 10, 11]) = some [1, 2, 3, 4, 5, 6, 7, 8, 9, 10, 11] := by decide

/-- The state that `LaunchFromResetIsReady` speaks of, for one word of the table. -/
theorem witness_LaunchFromResetIsReady :
    readyNow (.psx512 0 ⟨0, false⟩ (.reg 1)) (State.reset.withFetchWord 48 0xC113087DF662) = true ∧
    LaunchOk (State.reset.withFetchWord 48 0xC113087DF662) := ⟨by decide, launchRefusal_none.1 (by decide)⟩

/-- The premise of R34 in the launched state, and a fault and a refusal that still arise under it. -/
theorem witness_EnvOkRulesOut :
    EnvOk .evex512 machine ∧ EnvOk .evex512 { machine with maxvl := .w256 } ∧
    raised 0 (exec (.evexPs512 0 ⟨0, false⟩ (.reg 1)) { machine with maxvl := .w256 }) =
      some (.ud, machine.pc, 0x1F80, 0) ∧
    refusal (exec (.vexPs128 0 (.mem atG3)) { loaded with regions := [⟨0x9007, 1, .device⟩] }) =
      some (.deviceOperand 0x9007) :=
  ⟨⟨rfl, rfl, rfl, rfl, rfl, rfl⟩, ⟨rfl, rfl, rfl, rfl, rfl, rfl⟩, by decide, by decide⟩

/-- Both values of `L'L` and both maps. -/
theorem witness_SaeEncodingDecodes :
    (0xF2 : Byte).extractLsb' 3 1 = 0#1 ∧ (0xF2 : Byte).extractLsb' 0 3 = 2#3 ∧ (0xF6 : Byte).extractLsb' 0 3 = 6#3 ∧
    (0x18 : Byte).extractLsb' 3 1 = 1#1 ∧ (0x18 : Byte).extractLsb' 4 1 = 1#1 ∧ (0x18 : Byte).extractLsb' 5 2 = 0#2 ∧
    (0x58 : Byte).extractLsb' 5 2 = 2#2 ∧ (0x58 : Byte).extractLsb' 7 1 ≠ 1#1 ∧ (0xC1 : Byte).extractLsb' 6 2 = 3#2 ∧
    decode [0x62, 0xF6, 0x7D, 0x58, 0x13, 0xC1] = .instr (.psx512Sae 0 ⟨0, false⟩ 1) [] := by decide

/-- Real-address mode, with text to refuse. -/
theorem witness_StepRefusesOtherModes :
    (State.reset.withText [0xC4, 0xE2, 0x79, 0x13, 0xC1]).mode ≠ .mode64 ∧
    fetched (State.reset.withText [0xC4, 0xE2, 0x79, 0x13, 0xC1]) = some [0xC4, 0xE2, 0x79, 0x13, 0xC1] ∧
    refusal (step (State.reset.withText [0xC4, 0xE2, 0x79, 0x13, 0xC1])) = some (.modeOutOfScope .realAddress) := by
  decide

/-- The last register that exists and the first that does not, with and without AVX512F. -/
theorem witness_RegistersThatExist :
    registersExist ⟨true, true, true, true⟩ 31 (.reg 31) = true ∧
    registersExist ⟨true, false, false, true⟩ 15 (.reg 15) = true ∧
    registersExist ⟨true, false, false, true⟩ 15 (.reg 16) = false ∧
    registersExist ⟨true, false, false, true⟩ 16 (.mem atG3) = false := by decide

end Sys2Proof.Tests
end

section
/-! PROOFS. The statements of 00_scope.md: byte order of a read, the launch premise, and what a step does with it. -/

namespace Sys2Proof.Machine

open Sys2Proof

/-! ### Reading bytes -/

/-- A packed value by bytes (R50), as `packBytes_getLsbD` gives it by bits. -/
theorem packBytes_byte (value : Nat → Byte) (n i : Nat) (hn : n ≤ 32) :
    (packBytes value n).extractLsb' (8 * i) 8 = if i < n then value i else 0#8 := by
  apply BitVec.eq_of_getLsbD_eq
  intro b hb
  have hdiv : (8 * i + b) / 8 = i := by omega
  have hmod : (8 * i + b) % 8 = b := by omega
  rw [BitVec.getLsbD_extractLsb', packBytes_getLsbD _ _ _ hn, hdiv, hmod]
  by_cases hi : i < n
  · have hlt : 8 * i + b < 8 * n := by omega
    simp [hi, hlt, hb]
  · have hge : ¬ 8 * i + b < 8 * n := by omega
    simp [hi, hge]

/-- Settles O37, by the bytes of a packed value. -/
theorem readIsLittleEndian : Obligations.ReadIsLittleEndian := by
  intro s a n i hn
  have hbyte := packBytes_byte (fun j => s.readByte (a + BitVec.ofNat 64 j)) n i hn
  constructor
  · intro hi
    rwa [if_pos hi] at hbyte
  · intro hi
    rwa [if_neg (Nat.not_lt.2 hi)] at hbyte

/-! ### The mode of a meaning -/

/-- The stop of a check before the form is the answer of the instruction (R215). -/
theorem exec_of_accessStop {i : Instr} {s : State} {stop : Stop}
    (h : accessStop i.form i.dest i.source s = some stop) : exec i s = stop.outcome s := by
  rw [exec_eq_convertForm]
  simp only [convertForm, h]

/-- The mode stops a form before every other check (R204 (a), R124 (e)). -/
theorem accessStop_of_modeStop {f : Form} {d : VReg} {src : RegMem} {s : State} {stop : Stop}
    (h : modeStop s = some stop) : accessStop f d src s = some stop := by
  simp only [accessStop, h]

/-- The three modes for which no rule gives a form an outcome are refused by name (log entry 14). -/
theorem modeStop_of_mode_without_rule {s : State}
    (h : s.mode = .protected32 ∨ s.mode = .compatibility ∨ s.mode = .systemManagement) :
    modeStop s = some (.refuses (.modeOutOfScope s.mode)) := by
  rcases h with h | h | h <;> simp only [modeStop, h]

/-- Settles O46: the mode is the first check of every meaning. -/
theorem otherModesRefused : Obligations.OtherModesRefused := by
  intro i s h
  exact exec_of_accessStop (accessStop_of_modeStop (modeStop_of_mode_without_rule h))

/-! ### What a meaning answers under `env_ok` -/

/-- Under `env_ok` the checks before a form leave only the #UD of the processor's own limits: the CPUID flags, `MAXVL`
and the registers (R120, R119, R23). -/
theorem accessStop_of_envOk {f : Form} {d : VReg} {src : RegMem} {s : State} {stop : Stop} (henv : EnvOk f s)
    (h : accessStop f d src s = some stop) :
    stop = .raises .ud ∧
      (f.available s.features = false ∨ s.maxvl.bits < f.vl ∨ registersExist s.features d src = false) := by
  have hmode : modeStop s = none := by simp only [modeStop, henv.mode]
  simp only [accessStop, hmode, henv.ts] at h
  split at h
  · rename_i hun
    simp only [formUnavailable, henv.osxsave, henv.xcr0] at hun
    exact ⟨by simpa using h.symm, by simpa [or_assoc] using hun⟩
  · simp at h

/-- With alignment checking off the load stops with #SS, #GP or #PF, or at a device (R59, R58, R211). -/
theorem memStop_of_alignment_off {vex : Bool} {a : Word} {n : Nat} {sb : Bool} {s : State} {stop : Stop}
    (hoff : s.alignmentChecking = false) (h : memStop vex a n sb s = some stop) :
    (∃ x, stop = .raises x ∧ x ≠ .ud ∧ x ≠ .nm ∧ x ≠ .ac) ∨ ∃ dev, stop = .refuses (.deviceOperand dev) := by
  rcases memStop_cases h with ⟨_, rfl⟩ | ⟨p, _, rfl⟩ | ⟨hal, _⟩ | ⟨j, _, _, rfl⟩
  · exact .inl ⟨_, rfl, by cases sb <;> decide⟩
  · exact .inl ⟨_, rfl, by simp⟩
  · simp [alignmentFault, hoff] at hal
  · exact .inr ⟨_, rfl⟩

/-- All that `exec` can answer under `env_ok`: a next state, #UD for what the processor lacks, an exception that is none
of #UD, #NM and #AC, or the refusal of a device. -/
theorem exec_cases_of_envOk {i : Instr} {s : State} (henv : EnvOk i.form s) :
    (∃ t, exec i s = .next t) ∨
    (exec i s = .fault (.exception .ud s.pc s) ∧
      (i.form.available s.features = false ∨ s.maxvl.bits < i.form.vl ∨
        registersExist s.features i.dest i.source = false)) ∨
    (∃ x after, exec i s = .fault (.exception x s.pc after) ∧ x ≠ .ud ∧ x ≠ .nm ∧ x ≠ .ac) ∨
    ∃ dev, exec i s = .refused (.deviceOperand dev) := by
  rcases exec_cases i s with hnext | ⟨stop, hstop, he⟩ | ⟨m, stop, _, _, hstop, he⟩ | ⟨f, he⟩
  · exact .inl hnext
  · obtain ⟨rfl, hlacks⟩ := accessStop_of_envOk henv hstop
    exact .inr (.inl ⟨he, hlacks⟩)
  · rcases memStop_of_alignment_off henv.alignment hstop with ⟨x, rfl, hx⟩ | ⟨dev, rfl⟩
    · exact .inr (.inr (.inl ⟨x, s, he, hx⟩))
    · exact .inr (.inr (.inr ⟨dev, he⟩))
  · have hxm : simdException s = .xm := by simp [simdException, henv.osxmmexcpt]
    rw [hxm] at he
    exact .inr (.inr (.inl ⟨.xm, _, he, by decide⟩))

/-- Settles O48, from the four answers of `exec_cases_of_envOk`. -/
theorem envOkRulesOut : Obligations.EnvOkRulesOut := by
  intro i s henv
  constructor
  · intro x pc after hfault
    rcases exec_cases_of_envOk henv with ⟨t, he⟩ | ⟨he, hlacks⟩ | ⟨y, t, he, hud, hnm, hac⟩ | ⟨dev, he⟩
    · simp [he] at hfault
    · obtain ⟨rfl, _⟩ : Exception.ud = x ∧ _ := by simpa [he] using hfault
      exact ⟨by decide, by decide, fun _ => hlacks⟩
    · obtain ⟨rfl, _⟩ : y = x ∧ _ := by simpa [he] using hfault
      exact ⟨hnm, hac, fun h => absurd h hud⟩
    · simp [he] at hfault
  · intro r hrefused
    rcases exec_cases_of_envOk henv with ⟨t, he⟩ | ⟨he, _⟩ | ⟨y, t, he, _⟩ | ⟨dev, he⟩
    · simp [he] at hrefused
    · simp [he] at hrefused
    · simp [he] at hrefused
    · exact ⟨dev, by simpa [he] using hrefused.symm⟩

/-! ### The step and the launch premise -/

/-- A launch that the common premise fails for is refused (R34, R244). -/
theorem launchRefusal_of_not_launchOk {s : State} (h : ¬ LaunchOk s) : ∃ r, launchRefusal s = some r :=
  Option.ne_none_iff_exists'.1 fun hnone => h (launchRefusal_none.1 hnone)

/-- A step whose bytes decode to an instruction, under the common premise: its XCR0 bits decide (R34). -/
theorem step_of_decoded {s : State} {bytes rest : List Byte} {i : Instr} (hok : LaunchOk s)
    (hfetch : fetch s = .ok bytes) (hdecode : decode bytes = .instr i rest) :
    step s = if s.xcr0Enables i.form.vex then exec i s else .refused (.launchRefused (.xcr0 i.form.vex)) := by
  rw [step_of_fetch hfetch hok, hdecode]

/-- Settles O53. -/
theorem stepRunsDecoded : Obligations.StepRunsDecoded := by
  intro s bytes rest i hok hfetch hdecode hxcr0
  rw [step_of_decoded hok hfetch hdecode, if_pos hxcr0]

/-- Settles O54: the launch is refused for the mode before the bytes are decoded. -/
theorem stepRefusesOtherModes : Obligations.StepRefusesOtherModes := by
  intro s bytes hmode hfetch
  exact step_of_refused hfetch (launchRefusal_of_mode hmode)

/-- Settles O55: the common premise is asked before decoding, the XCR0 bits after it. -/
theorem stepRefusesBrokenLaunch : Obligations.StepRefusesBrokenLaunch := by
  intro s bytes hmode hfetch
  constructor
  · intro hbroken
    obtain ⟨r, hr⟩ := launchRefusal_of_not_launchOk hbroken
    obtain ⟨p, hp, rfl⟩ := launchRefusal_some hmode hr
    exact ⟨p, hp, step_of_refused hfetch hr⟩
  · intro hok i rest hdecode hxcr0
    rw [step_of_decoded hok hfetch hdecode, if_neg (by simp [hxcr0])]

end Sys2Proof.Machine
end

section
/-! PROOFS. The statements of 10_state.md, with those of 20_memory.md, 60_exceptions.md and 70_reset_and_hazards.md that
speak of the state: what a form reads and writes, the invariant, the frame of a step, reset and launch. -/

namespace Sys2Proof.Machine

open Sys2Proof

/-! ### When a form completes, and with what

`exec_eq_next_iff` is the one rule behind the rest: the three conditions under which an instruction answers a next
state, and that state in closed form over what the instruction reads. -/

/-- The read of a memory source is admitted (R59); a register source is always read. -/
def SourceAdmitted (i : Instr) (s : State) : Prop :=
  ∀ m, i.source = .mem m → memStop i.form.vex (i.address s m) i.readBytes (stackBase m) s = none

/-- The flags that an instruction signals: those of its active lanes, none under sae (R143, R148). -/
def signalledFlags (i : Instr) (s : State) : FpFlags :=
  if i.suppresses then .empty else laneFlags s.cvtNan i.form.psx (i.element s) (i.active s) i.form.kl

/-- What an instruction that completes writes to its destination (R149, R172). -/
def destResult (i : Instr) (s : State) : VecWord :=
  packLanes (newLane (s.readV i.dest) (fun j => (cvtH2s s.cvtNan (i.element s j)).1) (i.active s) i.zeroes) i.form.kl

/-- The state that an instruction leaves when it completes. -/
def retired (i : Instr) (s : State) : State :=
  s.retire i.dest (destResult i s) (setMxcsrFlags s.mxcsr (signalledFlags i s)) i.len

/-- The flags of the lanes below `n` depend on the elements and the activity of those lanes only. -/
theorem laneFlags_congr (cfg : List (Half × Single)) (psx : Bool) {elem elem' : Nat → Half}
    {active active' : Nat → Bool} (n : Nat) (he : ∀ j, j < n → elem j = elem' j)
    (ha : ∀ j, j < n → active j = active' j) :
    laneFlags cfg psx elem active n = laneFlags cfg psx elem' active' n := by
  induction n with
  | zero => rfl
  | succ n ih =>
    rw [laneFlags, laneFlags, ih (fun j hj => he j (by omega)) (fun j hj => ha j (by omega)), he n (by omega),
      ha n (by omega)]

/-- The value of a lane depends on its own result and activity only. -/
theorem newLane_congr (old : VecWord) {res res' : Nat → Single} {active active' : Nat → Bool} (zeroing : Bool)
    {j : Nat} (hres : res j = res' j) (hact : active j = active' j) :
    newLane old res active zeroing j = newLane old res' active' zeroing j := by
  simp only [newLane, hres, hact]

/-- The source of an instruction is read exactly where its read is admitted (R66). -/
theorem sourceElems_ok_iff {i : Instr} {s : State} : (∃ elem, sourceElems i s = .ok elem) ↔ SourceAdmitted i s := by
  unfold sourceElems SourceAdmitted
  cases hsrc : i.source with
  | reg n => simp
  | mem m =>
    cases hm : memStop i.form.vex (i.address s m) i.readBytes (stackBase m) s <;> simp [load, hm, Except.map]

/-- The flags of the elements read are those of the elements the instruction names. -/
theorem laneFlags_of_source {i : Instr} {s : State} {elem : Nat → Half} (h : sourceElems i s = .ok elem) :
    laneFlags s.cvtNan i.form.psx elem (i.active s) i.form.kl =
      laneFlags s.cvtNan i.form.psx (i.element s) (i.active s) i.form.kl :=
  laneFlags_congr _ _ _ (sourceElems_ok h) fun _ _ => rfl

/-- The commit of the elements read goes through where the signalled flags are masked (R146, R148). -/
theorem masked_iff_of_source {i : Instr} {s : State} {elem : Nat → Half} (h : sourceElems i s = .ok elem) :
    (i.suppresses = true ∨ unmasked s.mxcsr (laneFlags s.cvtNan i.form.psx elem (i.active s) i.form.kl) = false) ↔
      unmasked s.mxcsr (signalledFlags i s) = false := by
  rw [laneFlags_of_source h]
  cases hsae : i.suppresses
  · simp [signalledFlags, hsae]
  · simp [signalledFlags, hsae, unmasked, FpFlags.empty]

/-- The commit of the elements read leaves the retired state (R149). -/
theorem retire_of_source {i : Instr} {s : State} {elem : Nat → Half} (h : sourceElems i s = .ok elem) :
    s.retire i.dest
        (packLanes (newLane (s.readV i.dest) (fun j => (cvtH2s s.cvtNan (elem j)).1) (i.active s) i.zeroes) i.form.kl)
        (if i.suppresses then s.mxcsr
          else setMxcsrFlags s.mxcsr (laneFlags s.cvtNan i.form.psx elem (i.active s) i.form.kl)) i.len =
      retired i s := by
  have hdest :
      packLanes (newLane (s.readV i.dest) (fun j => (cvtH2s s.cvtNan (elem j)).1) (i.active s) i.zeroes) i.form.kl =
        destResult i s :=
    packLanes_congr _ fun j hj => newLane_congr _ _ (by rw [sourceElems_ok h j hj]) rfl
  rw [hdest, laneFlags_of_source h]
  cases hsae : i.suppresses <;> simp [retired, signalledFlags, hsae]

/-- The rule of this section: an instruction answers a next state where no check stops it, its source is admitted and
it signals no unmasked exception; the state is then the retired one (R149, R215). -/
theorem exec_eq_next_iff {i : Instr} {s t : State} :
    exec i s = .next t ↔
      accessStop i.form i.dest i.source s = none ∧ SourceAdmitted i s ∧
        unmasked s.mxcsr (signalledFlags i s) = false ∧ t = retired i s := by
  constructor
  · intro h
    obtain ⟨elem, hstop, hsrc, hmasked, rfl⟩ := exec_next h
    exact ⟨hstop, sourceElems_ok_iff.1 ⟨elem, hsrc⟩, (masked_iff_of_source hsrc).1 hmasked, retire_of_source hsrc⟩
  · rintro ⟨hstop, hadm, hmasked, rfl⟩
    obtain ⟨elem, hsrc⟩ := sourceElems_ok_iff.2 hadm
    rw [exec_of_source hstop hsrc ((masked_iff_of_source hsrc).2 hmasked), retire_of_source hsrc]

/-! ### The flags an instruction signals -/

/-- Under sae nothing is signalled (R148). -/
theorem signalledFlags_of_suppresses {i : Instr} (s : State) (h : i.suppresses = true) :
    signalledFlags i s = .empty := by
  simp [signalledFlags, h]

/-- IE is signalled for Invalid, but under sae. -/
theorem signalledFlags_ie {i : Instr} {s : State} :
    (signalledFlags i s).ie = true ↔ i.suppresses = false ∧ Invalid i s := by
  cases hsae : i.suppresses
  · simp [signalledFlags, hsae, laneFlags_ie_iff fun _ _ => rfl]
  · simp [signalledFlags, hsae, FpFlags.empty]

/-- DE is signalled for Denormal, but under sae. -/
theorem signalledFlags_de {i : Instr} {s : State} :
    (signalledFlags i s).de = true ↔ i.suppresses = false ∧ Denormal i s := by
  cases hsae : i.suppresses
  · simp [signalledFlags, hsae, laneFlags_de_iff fun _ _ => rfl]
  · simp [signalledFlags, hsae, FpFlags.empty]

/-- An unmasked flag is signalled exactly where the instruction traps (R146, R148). -/
theorem unmasked_signalledFlags_iff {i : Instr} {s : State} :
    unmasked s.mxcsr (signalledFlags i s) = true ↔ Trapping i s := by
  simp only [unmasked, Bool.or_eq_true, Bool.and_eq_true, Bool.not_eq_true', signalledFlags_ie, signalledFlags_de,
    Trapping]
  tauto

/-! ### MXCSR with flags set -/

/-- IE of MXCSR is ORed (R145). -/
theorem setMxcsrFlags_getLsbD_zero (m : BitVec 32) (f : FpFlags) :
    (setMxcsrFlags m f).getLsbD 0 = (m.getLsbD 0 || f.ie) := by
  rw [setMxcsrFlags_getLsbD]
  simp

/-- DE of MXCSR is ORed (R145). -/
theorem setMxcsrFlags_getLsbD_one (m : BitVec 32) (f : FpFlags) :
    (setMxcsrFlags m f).getLsbD 1 = (m.getLsbD 1 || f.de) := by
  rw [setMxcsrFlags_getLsbD]
  simp

/-- Setting flags keeps every bit that is set. -/
theorem setMxcsrFlags_keeps_set (m : BitVec 32) (f : FpFlags) {b : Nat} (h : m.getLsbD b = true) :
    (setMxcsrFlags m f).getLsbD b = true := by
  simp [setMxcsrFlags_getLsbD, h]

/-- Setting flags keeps every bit but IE and DE (R26). -/
theorem setMxcsrFlags_getLsbD_ge (m : BitVec 32) (f : FpFlags) {b : Nat} (h : 2 ≤ b) :
    (setMxcsrFlags m f).getLsbD b = m.getLsbD b := by
  simp [setMxcsrFlags_getLsbD, show b ≠ 0 by omega, show b ≠ 1 by omega]

/-- Setting flags keeps the reserved bits of MXCSR (R26). -/
theorem setMxcsrFlags_reserved (m : BitVec 32) (f : FpFlags) :
    (setMxcsrFlags m f).extractLsb' 16 16 = m.extractLsb' 16 16 := by
  apply BitVec.eq_of_getLsbD_eq
  intro b _
  rw [BitVec.getLsbD_extractLsb', BitVec.getLsbD_extractLsb', setMxcsrFlags_getLsbD_ge m f (by omega)]

/-- Flipping bits other than IE and DE commutes with setting flags. -/
theorem setMxcsrFlags_xor (m x : BitVec 32) (f : FpFlags) (h0 : x.getLsbD 0 = false) (h1 : x.getLsbD 1 = false) :
    setMxcsrFlags (m ^^^ x) f = setMxcsrFlags m f ^^^ x := by
  apply BitVec.eq_of_getLsbD_eq
  intro b _
  rw [BitVec.getLsbD_xor]
  match b with
  | 0 => simp only [setMxcsrFlags_getLsbD_zero, BitVec.getLsbD_xor, h0, Bool.xor_false]
  | 1 => simp only [setMxcsrFlags_getLsbD_one, BitVec.getLsbD_xor, h1, Bool.xor_false]
  | b + 2 => rw [setMxcsrFlags_getLsbD_ge _ _ (by omega), setMxcsrFlags_getLsbD_ge _ _ (by omega), BitVec.getLsbD_xor]

/-- Where nothing is suppressed, MXCSR with the signalled flags set is MXCSR flagged for what is detected (R145). -/
theorem flagsSet_signalledFlags {i : Instr} {s : State} (h : i.suppresses = false) :
    FlagsSet i s (setMxcsrFlags s.mxcsr (signalledFlags i s)) := by
  refine ⟨?_, ?_, fun b => setMxcsrFlags_getLsbD_ge _ _⟩
  · rw [setMxcsrFlags_getLsbD_zero, Bool.or_eq_true, signalledFlags_ie, and_iff_right h]
  · rw [setMxcsrFlags_getLsbD_one, Bool.or_eq_true, signalledFlags_de, and_iff_right h]

/-! ### The effect of an instruction that completes -/

/-- The retired state has the effect of the instruction (R38, R149, R172). -/
theorem completed_retired (i : Instr) (s : State) : Completed i s (retired i s) where
  lanes j hj := by
    simp only [retired, readV_retire_self, destResult]
    rw [lane_packLanes _ _ _ i.form.kl_le hj]
    rfl
  above b hb := by
    simp only [retired, readV_retire_self, destResult]
    exact packLanes_above _ _ _ i.form.kl_le (i.form.vl_eq ▸ hb)
  others n hn := readV_retire_ne s _ _ _ hn
  suppressed h := by simp [retired, signalledFlags_of_suppresses s h]
  flags h := flagsSet_signalledFlags h
  pc := rfl
  rest := ⟨rfl, fun _ => rfl⟩

/-- Whatever completes has the effect of the instruction. -/
theorem completed_of_exec {i : Instr} {s t : State} (h : exec i s = .next t) : Completed i s t := by
  obtain ⟨_, _, _, rfl⟩ := exec_eq_next_iff.1 h
  exact completed_retired i s

/-- Every instruction runs (R242): `Ready` passes the checks, `Readable` admits the source, and what does not trap
signals no unmasked exception. -/
theorem runs (i : Instr) (s : State) : Runs i s := by
  intro hready hread htrap
  have hunmasked : unmasked s.mxcsr (signalledFlags i s) = false :=
    Bool.eq_false_iff.2 fun h => htrap (unmasked_signalledFlags_iff.1 h)
  have hadm : SourceAdmitted i s := sourceElems_ok_iff.1 (sourceElems_of_readable hread)
  exact ⟨retired i s, exec_eq_next_iff.2 ⟨accessStop_of_ready hready, hadm, hunmasked, rfl⟩, completed_retired i s⟩

/-- Settles O19. -/
theorem vexFormsRun : Obligations.VexFormsRun := fun d src s => ⟨runs (.vexPs128 d src) s, runs (.vexPs256 d src) s⟩

/-- Settles O20. -/
theorem evexPsFormsRun : Obligations.EvexPsFormsRun := fun d k src s =>
  ⟨runs (.evexPs128 d k src) s, runs (.evexPs256 d k src) s, runs (.evexPs512 d k src) s⟩

/-- Settles O21. -/
theorem psxFormsRun : Obligations.PsxFormsRun := fun d k src s =>
  ⟨runs (.psx128 d k src) s, runs (.psx256 d k src) s, runs (.psx512 d k src) s⟩

/-! ### The step: invariant, frame, premise, `pc` -/

/-- An instruction that completes keeps the invariant: its destination exists, it writes zeros from VL up, which is
within `MAXVL`, and it sets no reserved bit of MXCSR (R20, R23, R26). -/
theorem exec_keeps_inv {i : Instr} {s t : State} (hinv : s.Inv) (h : exec i s = .next t) : t.Inv := by
  have hdone := completed_of_exec h
  obtain ⟨hstop, _, _, rfl⟩ := exec_eq_next_iff.1 h
  have hvl := vl_le_of_accessStop hstop
  have hexists := dest_lt_of_accessStop hstop
  refine ⟨hinv.mem, fun n b hb => ?_, ?_, hinv.text, fun n hn => ?_, hinv.narrow⟩
  · by_cases hd : n = i.dest
    · subst hd
      exact hdone.above b (le_trans hvl hb)
    · rw [hdone.others n hd]
      exact hinv.vregs n b hb
  · simp only [retired, State.retire_mxcsr, setMxcsrFlags_reserved, hinv.mxcsr]
  · have hd : n ≠ i.dest := by
      rintro rfl
      exact absurd hexists (Nat.not_lt.2 hn)
    rw [hdone.others n hd]
    exact hinv.nvec n hn

/-- Settles O33: a step that answers a next state is an instruction that completes. -/
theorem stepKeepsInvariant : Obligations.StepKeepsInvariant := by
  intro s t hinv hstep
  obtain ⟨_, _, _, _, _, _, _, hexec⟩ := step_next hstep
  exact exec_keeps_inv hinv hexec

/-- Settles O32. -/
theorem stepFrame : Obligations.StepFrame := by
  intro s t hstep
  obtain ⟨_, bytes, rest, i, hfetch, hdecode, _, hexec⟩ := step_next hstep
  have hdone := completed_of_exec hexec
  obtain ⟨_, _, _, rfl⟩ := exec_eq_next_iff.1 hexec
  exact ⟨bytes, rest, i, hfetch, hdecode, hdone.others, hdone.rest, fun _ => setMxcsrFlags_keeps_set _ _,
    fun _ => setMxcsrFlags_getLsbD_ge _ _⟩

/-- Settles O57. -/
theorem stepAdvancesPc : Obligations.StepAdvancesPc := by
  intro s t hstep
  obtain ⟨_, bytes, rest, i, hfetch, hdecode, _, hexec⟩ := step_next hstep
  exact ⟨bytes, rest, i, hfetch, hdecode, (completed_of_exec hexec).pc⟩

/-- The launch premise and the XCR0 bits of a form are its `env_ok` (R34). -/
theorem LaunchOk.envOk {f : Form} {s : State} (h : LaunchOk s) (hxcr0 : s.xcr0Enables f.vex = true) : EnvOk f s :=
  ⟨h.ts, h.osxsave, hxcr0, h.osxmmexcpt, h.mode, h.alignment⟩

/-- An instruction that completes keeps the launch premise: it writes no control state and sets no reserved bit of
MXCSR (R38, R244). -/
theorem LaunchOk.retired {s : State} (h : LaunchOk s) (i : Instr) : LaunchOk (retired i s) where
  mode := h.mode
  ts := h.ts
  osxsave := h.osxsave
  osxmmexcpt := h.osxmmexcpt
  alignment := h.alignment
  mxcsr := by simp only [Machine.retired, State.retire_mxcsr, setMxcsrFlags_reserved, h.mxcsr]

/-- Settles O56. -/
theorem stepMeetsLaunchPremise : Obligations.StepMeetsLaunchPremise := by
  intro s t hstep
  obtain ⟨hok, bytes, rest, i, hfetch, hdecode, hxcr0, hexec⟩ := step_next hstep
  obtain ⟨_, _, _, rfl⟩ := exec_eq_next_iff.1 hexec
  have hok' := hok.retired i
  exact ⟨hok, hok', bytes, rest, i, hfetch, hdecode, hexec, hok.envOk hxcr0, hok'.envOk hxcr0⟩

/-! ### What an instruction reads -/

/-- `s'` is to instruction `i` what `s` is: the checks, the source, the active lanes, the destination's old value, the
NaN configuration and the exception masks are the same. -/
structure ReadsSame (i : Instr) (s s' : State) : Prop where
  stop : accessStop i.form i.dest i.source s' = accessStop i.form i.dest i.source s
  admitted : SourceAdmitted i s → SourceAdmitted i s'
  element : ∀ j, j < i.form.kl → i.element s' j = i.element s j
  active : ∀ j, j < i.form.kl → i.active s' j = i.active s j
  old : s'.readV i.dest = s.readV i.dest
  cvtNan : s'.cvtNan = s.cvtNan
  im : mxcsrIM s'.mxcsr = mxcsrIM s.mxcsr
  dm : mxcsrDM s'.mxcsr = mxcsrDM s.mxcsr

/-- The same reads signal the same flags. -/
theorem ReadsSame.signalledFlags_eq {i : Instr} {s s' : State} (h : ReadsSame i s s') :
    signalledFlags i s' = signalledFlags i s := by
  simp only [signalledFlags, h.cvtNan, laneFlags_congr _ _ _ h.element h.active]

/-- The same reads give the same result. -/
theorem ReadsSame.destResult_eq {i : Instr} {s s' : State} (h : ReadsSame i s s') :
    destResult i s' = destResult i s := by
  simp only [destResult, h.cvtNan, h.old]
  exact packLanes_congr _ fun j hj => newLane_congr _ _ (by rw [h.element j hj]) (h.active j hj)

/-- What completes in `s` completes in a state that reads the same, with the same result and the same flags set. -/
theorem ReadsSame.exec_next {i : Instr} {s s' t : State} (h : ReadsSame i s s') (hexec : exec i s = .next t) :
    t = retired i s ∧
      exec i s' = .next (s'.retire i.dest (destResult i s) (setMxcsrFlags s'.mxcsr (signalledFlags i s)) i.len) := by
  obtain ⟨hstop, hadm, hmasked, ht⟩ := exec_eq_next_iff.1 hexec
  refine ⟨ht, exec_eq_next_iff.2 ⟨h.stop.trans hstop, h.admitted hadm, ?_, ?_⟩⟩
  · rw [h.signalledFlags_eq]
    simpa only [unmasked, h.im, h.dm] using hmasked
  · rw [retired, h.destResult_eq, h.signalledFlags_eq]

/-- Settles O29: of MXCSR an instruction reads the masks IM and DM only. -/
theorem dazRcFtzIgnored : Obligations.DazRcFtzIgnored := by
  intro i s t x hx hexec
  have h0 := hx 0 (by decide) (by decide) (by decide) (by decide)
  have h1 := hx 1 (by decide) (by decide) (by decide) (by decide)
  have h7 := hx 7 (by decide) (by decide) (by decide) (by decide)
  have h8 := hx 8 (by decide) (by decide) (by decide) (by decide)
  have hsame : ReadsSame i s (s.withMxcsr (s.mxcsr ^^^ x)) :=
    { stop := rfl
      admitted := id
      element := fun _ _ => rfl
      active := fun _ _ => rfl
      old := rfl
      cvtNan := rfl
      im := by simp only [mxcsrIM, State.withMxcsr_mxcsr, BitVec.getLsbD_xor, h7, Bool.xor_false]
      dm := by simp only [mxcsrDM, State.withMxcsr_mxcsr, BitVec.getLsbD_xor, h8, Bool.xor_false] }
  obtain ⟨rfl, h⟩ := hsame.exec_next hexec
  rw [h, State.withMxcsr_mxcsr, setMxcsrFlags_xor _ _ _ h0 h1]
  rfl

/-- An instruction reads the opmask registers as its active lanes only (R108). -/
theorem active_congr {i : Instr} {s s' : State} {j : Nat}
    (h : ∀ m, i.mask = some m → m.aaa ≠ 0#3 → (s'.readK m.aaa).getLsbD j = (s.readK m.aaa).getLsbD j) :
    i.active s' j = i.active s j := by
  unfold Instr.active
  cases hmask : i.mask with
  | none => rfl
  | some m =>
    by_cases hzero : m.aaa = 0#3
    · simp [hzero]
    · simp [h m hmask hzero]

/-- Settles O30. -/
theorem maskBitsAboveKlIgnored : Obligations.MaskBitsAboveKlIgnored := by
  intro i s t k hk hexec
  have hsame : ReadsSame i s { s with k := k } :=
    { stop := rfl
      admitted := id
      element := fun _ _ => rfl
      active := fun j hj => active_congr fun m hm ha => hk m hm ha j hj
      old := rfl
      cvtNan := rfl
      im := rfl
      dm := rfl }
  obtain ⟨rfl, h⟩ := hsame.exec_next hexec
  exact h

/-- The elements of a register source are those of the register (R51). -/
theorem element_of_reg {i : Instr} {n : VReg} (h : i.source = .reg n) (s : State) (j : Nat) :
    i.element s j = elemAt (s.readV n) j := by
  simp only [Instr.element, h]

/-- Element `j` is bits `16*j` to `16*j + 15` (R11). -/
theorem elemAt_congr {x y : VecWord} {n j : Nat} (hj : j < n) (h : ∀ b, b < 16 * n → x.getLsbD b = y.getLsbD b) :
    elemAt x j = elemAt y j := by
  apply BitVec.eq_of_getLsbD_eq
  intro b hb
  simp only [elemAt, BitVec.getLsbD_extractLsb', h (16 * j + b) (by omega)]

/-- Writes of two different vector registers commute. -/
theorem retire_writeV_comm (s : State) {d n : VReg} (x y : VecWord) (m : BitVec 32) (len : Nat) (h : n ≠ d) :
    (s.writeV n x).retire d y m len = (s.retire d y m len).writeV n x := by
  have hne : n.toNat ≠ d.toNat := fun e => h (BitVec.eq_of_toNat_eq e)
  simp only [State.retire, State.writeV, Vector.set_comm _ _ hne]

/-- Settles O31. -/
theorem sourceBitsAboveIgnored : Obligations.SourceBitsAboveIgnored := by
  intro i s t n x hsrc hne hx hexec
  have hsame : ReadsSame i s (s.writeV n x) :=
    { stop := rfl
      admitted := id
      element := fun j hj => by
        rw [element_of_reg hsrc, element_of_reg hsrc, readV_writeV_self]
        exact elemAt_congr hj hx
      active := fun _ _ => rfl
      old := readV_writeV_ne s x hne.symm
      cvtNan := rfl
      im := rfl
      dm := rfl }
  obtain ⟨rfl, h⟩ := hsame.exec_next hexec
  rw [h, retire_writeV_comm _ _ _ _ _ hne]
  rfl

/-- A packed value depends on the bytes packed only. -/
theorem packBytes_congr {a b : Nat → Byte} (n : Nat) (h : ∀ j, j < n → a j = b j) :
    packBytes a n = packBytes b n := by
  induction n with
  | zero => rfl
  | succ n ih => rw [packBytes, packBytes, ih fun j hj => h j (by omega), h n (by omega)]

/-- With the bytes of its memory operand the same, an instruction has the same elements (R52, R57). -/
theorem element_with_mem {i : Instr} {s : State} {mem : Memory} {j : Nat} (hj : j < i.form.kl)
    (h : ∀ m, i.source = .mem m → ∀ l, l < i.readBytes →
      { s with mem := mem }.readByte (i.address s m + BitVec.ofNat 64 l) =
        s.readByte (i.address s m + BitVec.ofNat 64 l)) :
    i.element { s with mem := mem } j = i.element s j := by
  cases hsrc : i.source with
  | reg n => exact (element_of_reg hsrc _ j).trans (element_of_reg hsrc s j).symm
  | mem m =>
    have hread : { s with mem := mem }.memRead (i.address s m) i.readBytes = s.memRead (i.address s m) i.readBytes :=
      packBytes_congr _ (h m hsrc)
    have haddr : i.address { s with mem := mem } m = i.address s m := rfl
    rw [← elemAt_eq_element i _ m hsrc j hj, ← elemAt_eq_element i s m hsrc j hj, haddr, hread]

/-- Settles O38. -/
theorem memoryOutsideOperandIgnored : Obligations.MemoryOutsideOperandIgnored := by
  intro i s t mem hmem hexec
  have hsame : ReadsSame i s { s with mem := mem } :=
    { stop := rfl
      admitted := id
      element := fun _ hj => element_with_mem hj hmem
      active := fun _ _ => rfl
      old := rfl
      cvtNan := rfl
      im := rfl
      dm := rfl }
  obtain ⟨rfl, h⟩ := hsame.exec_next hexec
  exact h

/-! ### Faults -/

/-- A stop that faults saves the address of the instruction and the state as it was (R38, R219). -/
theorem Stop.outcome_fault {s after : State} {stop : Stop} {x : Exception} {pc : Word}
    (h : stop.outcome s = .fault (.exception x pc after)) : pc = s.pc ∧ after = s := by
  cases stop with
  | raises y =>
    rw [Stop.outcome_raises] at h
    injection h with h
    injection h with _ hpc hafter
    exact ⟨hpc.symm, hafter.symm⟩
  | refuses r => simp [Stop.outcome] at h

/-- All that a fault of an instruction can be: the stop of a check or of the load, with the state as it was, or the
unmasked response, which sets flags (R147, R219). -/
theorem exec_fault_cases {i : Instr} {s after : State} {x : Exception} {pc : Word}
    (h : exec i s = .fault (.exception x pc after)) :
    pc = s.pc ∧ (after = s ∨ ∃ f, x = simdException s ∧ after = s.withMxcsr (setMxcsrFlags s.mxcsr f)) := by
  rcases exec_cases i s with ⟨t, he⟩ | ⟨stop, _, he⟩ | ⟨m, stop, _, _, _, he⟩ | ⟨f, he⟩
  · simp [he] at h
  · obtain ⟨hpc, hafter⟩ := Stop.outcome_fault (he ▸ h)
    exact ⟨hpc, .inl hafter⟩
  · obtain ⟨hpc, hafter⟩ := Stop.outcome_fault (he ▸ h)
    exact ⟨hpc, .inl hafter⟩
  · rw [he, raise_eq] at h
    injection h with h
    injection h with hx hpc hafter
    exact ⟨hpc.symm, .inr ⟨f, hx.symm, hafter.symm⟩⟩

/-- An unmasked SIMD floating-point exception is #XM or #UD (R147). -/
theorem simdException_cases (s : State) : simdException s = .xm ∨ simdException s = .ud := by
  unfold simdException
  split <;> simp

/-- Settles O51. -/
theorem faultLeavesState : Obligations.FaultLeavesState := by
  intro i s after x pc h
  obtain ⟨hpc, hafter | ⟨f, hx, hafter⟩⟩ := exec_fault_cases h
  · subst hafter
    exact ⟨hpc, rfl, fun _ _ => rfl, fun _ h => h, fun _ _ => rfl⟩
  · subst hafter
    refine ⟨hpc, rfl, fun hxm hud => ?_, fun _ => setMxcsrFlags_keeps_set _ _,
      fun _ => setMxcsrFlags_getLsbD_ge _ _⟩
    rcases simdException_cases s with h' | h'
    · exact absurd (hx.trans h') hxm
    · exact absurd (hx.trans h') hud

/-- The first byte that paging refuses is the one `firstPageFault` names (R210). -/
theorem firstPageFault_eq {s : State} {a : Word} {n j : Nat} {code : BitVec 32} (hj : j < n)
    (hat : regionAt s.regions (a + BitVec.ofNat 64 j) = some (.pageFault code))
    (hbelow : ∀ l, l < j → ∀ c, regionAt s.regions (a + BitVec.ofNat 64 l) ≠ some (.pageFault c)) :
    firstPageFault s a n = some (code, a + BitVec.ofNat 64 j) := by
  obtain ⟨k, rfl⟩ : ∃ k, n = j + (k + 1) := ⟨n - j - 1, by omega⟩
  refine List.findSome?_eq_some_iff.2 ⟨List.range j, j, (List.range k).map fun l => j + (l + 1), ?_, ?_, ?_⟩
  · rw [List.range_add, List.range_succ_eq_map]
    simp
  · simp only [hat]
  · intro l hl
    have hl := hbelow l (List.mem_range.1 hl)
    split
    · rename_i c hc
      exact absurd hc (hl c)
    · rfl
    · rfl

/-- An instruction that is ready and whose memory operand is not admitted answers the stop of the load (R215). -/
theorem exec_of_memStop {i : Instr} {s : State} {m : MemOp} {stop : Stop} (hready : Ready i s)
    (hsrc : i.source = .mem m)
    (hstop : memStop i.form.vex (i.address s m) i.readBytes (stackBase m) s = some stop) :
    exec i s = stop.outcome s := by
  have hload : sourceElems i s = .error stop := by simp [sourceElems, hsrc, load, hstop, Except.map]
  rw [exec_eq_convertForm]
  simp only [convertForm, accessStop_of_ready hready, hload]

/-- Settles O42: the load stops before an element is converted. -/
theorem pageFaultBeforeFlags : Obligations.PageFaultBeforeFlags := by
  intro i s m j code hready hsrc hcanon hj hat hbelow
  have hstop : memStop i.form.vex (i.address s m) i.readBytes (stackBase m) s =
      some (.raises (.pf code (i.address s m + BitVec.ofNat 64 j))) := by
    simp [memStop, hcanon, firstPageFault_eq hj hat hbelow]
  exact exec_of_memStop hready hsrc hstop

/-! ### The registers an instruction names -/

/-- Destination and register source exist where both numbers are below `NVEC` (R23). -/
theorem registersExist_reg_iff {c : Features} {d n : VReg} :
    registersExist c d (.reg n) = true ↔ d.toNat < c.nvec ∧ n.toNat < c.nvec := by
  simp [registersExist]

/-- A memory source names no vector register. -/
theorem registersExist_mem_iff {c : Features} {d : VReg} {m : MemOp} :
    registersExist c d (.mem m) = true ↔ d.toNat < c.nvec := by
  simp [registersExist]

/-- Settles O45: `NVEC` is 32 with AVX512F and 16 without. -/
theorem registersThatExist : Obligations.RegistersThatExist := fun _ _ _ _ =>
  ⟨registersExist_reg_iff, registersExist_mem_iff⟩

/-! ### Memory and the program text -/

/-- Settles O40. -/
theorem readAfterWrite : Obligations.ReadAfterWrite := by
  intro s a c b hwf
  refine ⟨?_, fun hne => ?_, Memory.write_wf _ _ a.isLt hwf⟩
  · rw [readByte_writeByte s a a b hwf, if_pos rfl]
  · rw [readByte_writeByte s a c b hwf, if_neg hne]

/-- Storing bytes changes memory only. -/
theorem writeBytes_frame (bytes : List Byte) (s : State) (a : Word) :
    s.writeBytes a bytes = { s with mem := (s.writeBytes a bytes).mem } := by
  induction bytes generalizing s a with
  | nil => rfl
  | cons b rest ih => exact ih (s.writeByte a b) (a + 1)

/-- Placing a text changes memory and the bounds of the text only. -/
theorem withText_frame (s : State) (bytes : List Byte) :
    s.withText bytes =
      { s with mem := (s.writeBytes s.pc bytes).mem, textBase := s.pc, textLen := bytes.length } := by
  rw [State.withText, writeBytes_frame]

/-- The byte after an address's first `j` is the `j`-th after its successor. -/
theorem add_ofNat_succ (a : Word) (j : Nat) : a + BitVec.ofNat 64 (j + 1) = a + 1 + BitVec.ofNat 64 j := by
  rw [Nat.add_comm j 1, BitVec.ofNat_add, ← BitVec.add_assoc]
  rfl

/-- An address that none of the stored bytes has reads as before. -/
theorem readByte_writeBytes_of_ne (bytes : List Byte) (s : State) (a c : Word) (hwf : s.mem.wf = true)
    (h : ∀ j, j < bytes.length → c ≠ a + BitVec.ofNat 64 j) :
    (s.writeBytes a bytes).readByte c = s.readByte c := by
  induction bytes generalizing s a with
  | nil => rfl
  | cons b rest ih =>
    have hhead : c ≠ a := by simpa using h 0 (by simp)
    have htail : ∀ j, j < rest.length → c ≠ a + 1 + BitVec.ofNat 64 j := fun j hj => by
      rw [← add_ofNat_succ]
      exact h (j + 1) (by simpa using hj)
    rw [State.writeBytes, ih _ _ (Memory.write_wf _ _ a.isLt hwf) htail, readByte_writeByte s a c b hwf, if_neg hhead]

/-- Each of the stored bytes is read back, where they do not wrap around the address space. -/
theorem readByte_writeBytes (bytes : List Byte) (s : State) (a : Word) (j : Nat) (hwf : s.mem.wf = true)
    (hlen : bytes.length ≤ 2 ^ 64) (hj : j < bytes.length) :
    (s.writeBytes a bytes).readByte (a + BitVec.ofNat 64 j) = bytes[j] := by
  induction bytes generalizing s a j with
  | nil => simp at hj
  | cons b rest ih =>
    have hwf' : (s.writeByte a b).mem.wf = true := Memory.write_wf _ _ a.isLt hwf
    rw [List.length_cons] at hlen hj
    cases j with
    | zero =>
      rw [State.writeBytes, readByte_writeBytes_of_ne _ _ _ _ hwf' fun l hl => ?_, readByte_writeByte s a _ b hwf]
      · simp
      · bv_omega
    | succ j =>
      rw [add_ofNat_succ]
      exact ih (s.writeByte a b) (a + 1) j hwf' (by omega) (by omega)

/-- A text of one instruction's length or less, placed at `pc`, is what the fetch reads (R63, R244). -/
theorem fetch_withText {s : State} {bytes : List Byte} (hwf : s.mem.wf = true) (hpos : 0 < bytes.length)
    (hlen : bytes.length ≤ maxInstrLen) : fetch (s.withText bytes) = .ok bytes := by
  have hoff : (s.withText bytes).textOffset = 0 := by simp [withText_frame, State.textOffset]
  have htext : (s.withText bytes).textLen = bytes.length := rfl
  have hmin : min maxInstrLen (bytes.length - 0) = bytes.length := by omega
  have hread : ∀ j (hj : j < bytes.length),
      (s.withText bytes).readByte ((s.withText bytes).pc + BitVec.ofNat 64 j) = bytes[j] := fun j hj => by
    rw [withText_frame]
    exact readByte_writeBytes bytes s s.pc j hwf (le_trans hlen (by decide)) hj
  rw [fetch, hoff, htext, if_pos hpos, hmin]
  congr 1
  apply List.ext_getElem
  · simp
  · intro j hj hj'
    simp [hread j hj']

/-! ### Reset and launch -/

/-- Every vector register is 0 after reset (R39). -/
theorem readV_reset (n : VReg) : State.reset.readV n = 0 := by
  simp [State.readV, State.reset]

/-- Settles O34. -/
theorem resetMeetsInvariant : Obligations.ResetMeetsInvariant where
  mem := rfl
  vregs n b _ := by simp [readV_reset]
  mxcsr := by decide
  text := Nat.zero_le _
  nvec n _ := readV_reset n
  narrow h := by simp [State.reset] at h

/-- Settles O36. -/
theorem resetValues : Obligations.ResetValues := by
  refine ⟨readV_reset, fun n => ?_, fun n hn => ?_, rfl, rfl, rfl, rfl, rfl⟩
  · simp [State.readK, State.reset]
  · have hne : 2 ≠ n.toNat := fun e => hn (BitVec.eq_of_toNat_eq e.symm)
    simp [State.readG, State.reset, hne]

/-- The bytes taken of a number are as many as asked for. -/
theorem length_bytesOfNat (n w : Nat) : (bytesOfNat n w).length = n := by
  induction n generalizing w with
  | zero => rfl
  | succ n ih => simp [bytesOfNat, ih]

/-- Placing a text keeps the launch premise (R244). -/
theorem LaunchOk.withText {s : State} (h : LaunchOk s) (bytes : List Byte) : LaunchOk (s.withText bytes) := by
  rw [withText_frame]
  exact ⟨h.mode, h.ts, h.osxsave, h.osxmmexcpt, h.alignment, h.mxcsr⟩

/-- Placing a text keeps an instruction ready (R242). -/
theorem Ready.withText {i : Instr} {s : State} (h : Ready i s) (bytes : List Byte) : Ready i (s.withText bytes) := by
  rw [withText_frame]
  exact ⟨h.mode, h.osxsave, h.xcr0, h.features, h.maxvl, h.registers, h.ts⟩

/-- Launched from reset, the machine meets the launch premise (R34, R242, R244). -/
theorem launchOk_launched : LaunchOk State.reset.launched := launchRefusal_none.1 (by decide)

/-- With every feature reported, every form is available (R120). -/
theorem available_of_all_features (f : Form) : f.available ⟨true, true, true, true⟩ = true := by cases f <;> rfl

/-- With AVX512F every register number exists (R23). -/
theorem registersExist_of_all_features (d : VReg) (src : RegMem) :
    registersExist ⟨true, true, true, true⟩ d src = true := by
  cases src with
  | reg n => exact registersExist_reg_iff.2 ⟨d.isLt, n.isLt⟩
  | mem m => exact registersExist_mem_iff.2 d.isLt

/-- No form is wider than 512 bits (R9). -/
theorem Form.vl_le (f : Form) : f.vl ≤ 512 := by cases f <;> decide

/-- Launched from reset, the machine is ready for every instruction (R242). -/
theorem ready_launched (i : Instr) : Ready i State.reset.launched where
  mode := launchOk_launched.mode
  osxsave := launchOk_launched.osxsave
  xcr0 := by cases i.form.vex <;> decide
  features := available_of_all_features i.form
  maxvl := i.form.vl_le
  registers := registersExist_of_all_features i.dest i.source
  ts := launchOk_launched.ts

/-- Settles O60. -/
theorem launchFromResetIsReady : Obligations.LaunchFromResetIsReady := by
  intro i nbits w
  have hok := launchOk_launched.withText (tableBytes nbits w)
  have hready := (ready_launched i).withText (tableBytes nbits w)
  have hlen : (tableBytes nbits w).length = maxInstrLen := length_bytesOfNat _ _
  exact ⟨hok, hok.envOk hready.xcr0, hready, fetch_withText rfl (by rw [hlen]; decide) hlen.le⟩

end Sys2Proof.Machine
end

section
/-! PROOFS. The remaining statements of 20_memory.md, with those of 43_vcvtph2psx.md, 60_exceptions.md and
70_reset_and_hazards.md that speak of the memory operand or the program text: what stops a load, what is refused, and
where a run ends. -/

namespace Sys2Proof.Machine

open Sys2Proof

/-! ### What stops a load -/

/-- An operand is not canonical exactly where it wraps or one of its bytes is not canonical (R59). -/
theorem canonicalOperand_eq_false_iff {la57 : Bool} {a : Word} {n : Nat} :
    canonicalOperand la57 a n = false ↔
      2 ^ 64 < a.toNat + n ∨ ∃ j, j < n ∧ canonical la57 (a + BitVec.ofNat 64 j) = false := by
  rw [canonicalOperand, Bool.and_eq_false_iff, decide_eq_false_iff_not, Nat.not_le]
  simp

/-- The check of canonical addresses comes first, and its exception depends on the base register (R209, R215). -/
theorem memStop_of_not_canonical {vex : Bool} {a : Word} {n : Nat} {sb : Bool} {s : State}
    (h : canonicalOperand s.la57 a n = false) :
    memStop vex a n sb s = some (.raises (if sb then .ss else .gp)) := by
  rw [memStop, if_pos h]

/-- Paging refuses no byte of an operand exactly where none lies in a region that it refuses (R210). -/
theorem firstPageFault_eq_none_iff {s : State} {a : Word} {n : Nat} :
    firstPageFault s a n = none ↔
      ∀ l, l < n → ∀ c, regionAt s.regions (a + BitVec.ofNat 64 l) ≠ some (.pageFault c) := by
  simp only [firstPageFault, List.findSome?_eq_none_iff, List.mem_range]
  refine forall₂_congr fun l _ => ?_
  rcases regionAt s.regions (a + BitVec.ofNat 64 l) with _ | (_ | _) <;> simp

/-- A device byte of an operand is found where there is one (R58). -/
theorem exists_firstDevice {s : State} {a : Word} {n j : Nat} (hj : j < n)
    (hat : regionAt s.regions (a + BitVec.ofNat 64 j) = some .device) : ∃ dev, firstDevice s a n = some dev := by
  refine Option.ne_none_iff_exists'.1 fun hnone => ?_
  simpa [hat] using List.findSome?_eq_none_iff.1 hnone j (List.mem_range.2 hj)

/-- With alignment checking off no form meets #AC (R206, R211). -/
theorem alignmentFault_of_alignment_off {vex : Bool} {a : Word} {n : Nat} {s : State}
    (h : s.alignmentChecking = false) : alignmentFault vex a n s = false := by
  simp [alignmentFault, h]

/-- A canonical operand that meets neither #PF nor #AC is stopped by a device byte of it (R58, log entry 24). -/
theorem memStop_of_device {vex : Bool} {a : Word} {n : Nat} {sb : Bool} {s : State} {dev : Word}
    (hcanon : canonicalOperand s.la57 a n = true) (hpage : firstPageFault s a n = none)
    (halign : alignmentFault vex a n s = false) (hdev : firstDevice s a n = some dev) :
    memStop vex a n sb s = some (.refuses (.deviceOperand dev)) := by
  simp [memStop, hcanon, hpage, halign, hdev]

/-- Settles O41. -/
theorem nonCanonicalOperandFaults : Obligations.NonCanonicalOperandFaults := by
  intro i s m hready hsrc hbad
  exact exec_of_memStop hready hsrc (memStop_of_not_canonical (canonicalOperand_eq_false_iff.2 hbad))

/-- Settles O43: what the operand does not meet leaves the device check, which finds the byte. -/
theorem deviceOperandRefused : Obligations.DeviceOperandRefused := by
  intro i s m j hready hsrc hcanon hoff hj hat hpage
  obtain ⟨dev, hdev⟩ := exists_firstDevice hj hat
  exact ⟨dev, exec_of_memStop hready hsrc (memStop_of_device hcanon (firstPageFault_eq_none_iff.2 hpage)
    (alignmentFault_of_alignment_off hoff) hdev)⟩

/-! ### What a meaning refuses -/

/-- The stop of a check is a refusal only where the check refuses. -/
theorem Stop.outcome_refused {s : State} {stop : Stop} {r : Refusal} (h : stop.outcome s = .refused r) :
    stop = .refuses r := by
  cases stop with
  | raises x => simp [Stop.outcome_raises] at h
  | refuses r' => simpa [Stop.outcome] using h

/-- Settles O52: of the answers of `exec_cases` only the mode check and the device check refuse. -/
theorem onlyModeAndDeviceRefused : Obligations.OnlyModeAndDeviceRefused := by
  intro i s r h
  rcases exec_cases i s with ⟨t, he⟩ | ⟨stop, hstop, he⟩ | ⟨m, stop, _, hsrc, hstop, he⟩ | ⟨f, he⟩
  · simp [he] at h
  · obtain rfl := Stop.outcome_refused (he ▸ h)
    rcases accessStop_cases hstop with hud | hnm | ⟨mode, hmode, hs⟩
    · cases hud
    · cases hnm
    · exact .inl ⟨mode, Stop.refuses.inj hmode, hs⟩
  · obtain rfl := Stop.outcome_refused (he ▸ h)
    rcases memStop_cases hstop with ⟨_, hgp⟩ | ⟨p, _, hpf⟩ | ⟨_, hac⟩ | ⟨j, hj, hat, hdev⟩
    · cases hgp
    · cases hpf
    · cases hac
    · exact .inr ⟨m, j, hsrc, hj, Stop.refuses.inj hdev, hat⟩
  · simp [he, raise_eq] at h

/-! ### The broadcast forms -/

/-- Settles O22. -/
theorem psxBroadcastFormsRun : Obligations.PsxBroadcastFormsRun := fun d k m s =>
  ⟨runs (.psx128Bcst d k m) s, runs (.psx256Bcst d k m) s, runs (.psx512Bcst d k m) s⟩

/-! ### The program text -/

/-- Settles O59. -/
theorem placedTextIsFetched : Obligations.PlacedTextIsFetched := fun _ _ hwf hpos hlen =>
  fetch_withText hwf hpos hlen

/-- A run has finished exactly at the address after the last byte of the text (R245). -/
theorem finished_iff {s : State} : s.finished = true ↔ s.textOffset = s.textLen := by
  simp [State.finished]

/-- Nothing is fetched at the address after the last byte of the text (R245). -/
theorem fetch_of_end {s : State} (h : s.textOffset = s.textLen) : fetch s = .error .endOfText := by
  rw [fetch, if_neg h.not_lt, if_pos h]

/-- Nothing is fetched past that address (R63). -/
theorem fetch_of_outside {s : State} (h : s.textLen < s.textOffset) : fetch s = .error .outsideText := by
  rw [fetch, if_neg h.not_gt, if_neg h.ne']

/-- A step that fetches nothing is refused for it, before the launch premise is asked. -/
theorem step_of_fetch_error {s : State} {r : Refusal} (h : fetch s = .error r) : step s = .refused r := by
  simp only [step, h]

/-- Settles O58. -/
theorem runEndsAtEndOfText : Obligations.RunEndsAtEndOfText := fun _ =>
  ⟨fun hfinished => step_of_fetch_error (fetch_of_end (finished_iff.1 hfinished)),
    fun houtside => step_of_fetch_error (fetch_of_outside houtside)⟩

end Sys2Proof.Machine
end

section
/-! PROOFS. The statements of 30_encoding.md that speak of bytes alone: what the decoder does with each branch of R119,
what an instruction that decodes is made of, and that the encoder's bytes decode to the instruction encoded. -/

namespace Sys2Proof

/-! ### The fields of a packed byte -/

/-- ModRM and SIB bytes hold the three fields put into them (R111, R114). -/
@[simp] theorem packByte_fields (hi : BitVec 2) (mid lo : BitVec 3) :
    top2 (packByte hi mid lo) = hi ∧ mid3 (packByte hi mid lo) = mid ∧ low3 (packByte hi mid lo) = lo := by
  simp (disch := decide) only [top2, mid3, low3, packByte, BitVec.extractLsb'_append_eq_of_le,
    BitVec.extractLsb'_append_eq_of_add_le, Nat.reduceSub, BitVec.extractLsb'_eq_self, and_self]

/-- A vector register number is its three fields (R95, R106). -/
@[simp] theorem VReg.append_fields (n : VReg) : n.extractLsb' 4 1 ++ n.extractLsb' 3 1 ++ n.extractLsb' 0 3 = n := by
  simp (disch := decide) only [BitVec.extractLsb'_append_extractLsb'_eq_extractLsb', BitVec.extractLsb'_eq_self]

/-- A general register number is its extension bit and its three bits of ModRM or SIB (R112, R114). -/
@[simp] theorem GReg.append_fields (r : GReg) : r.extractLsb' 3 1 ++ r.extractLsb' 0 3 = r := by
  simp (disch := decide) only [BitVec.extractLsb'_append_extractLsb'_eq_extractLsb', BitVec.extractLsb'_eq_self]

/-- A 32-bit displacement is its four bytes (R117). -/
@[simp] theorem append_disp32_bytes (d : BitVec 32) :
    d.extractLsb' 24 8 ++ d.extractLsb' 16 8 ++ d.extractLsb' 8 8 ++ d.extractLsb' 0 8 = d := by
  simp (disch := decide) only [BitVec.extractLsb'_append_extractLsb'_eq_extractLsb', BitVec.extractLsb'_eq_self]

/-- The three low bits of a general register number under its extension bit (R112, R114). -/
@[simp] theorem GReg.low_append (x : BitVec 1) (lo : BitVec 3) : (x ++ lo : GReg).extractLsb' 0 3 = lo := by
  simp (disch := decide) only [BitVec.extractLsb'_append_eq_of_add_le, BitVec.extractLsb'_eq_self]

/-! ### The bytes of the encoder before the opcode -/

/-- The second byte of a VEX encoding (R84). -/
def vexP1 (d : VReg) (x b : BitVec 1) : Byte := ~~~(d.extractLsb' 3 1) ++ ~~~x ++ ~~~b ++ 2#5

/-- The third byte of a VEX encoding (R84, R85). -/
def vexP2 (l : BitVec 1) : Byte := 0#1 ++ 15#4 ++ l ++ 1#2

/-- `P0` of an EVEX encoding (R96). -/
def evexP0 (d : VReg) (x b : BitVec 1) (map : BitVec 3) : Byte :=
  ~~~(d.extractLsb' 3 1) ++ ~~~x ++ ~~~b ++ ~~~(d.extractLsb' 4 1) ++ 0#1 ++ map

/-- `P2` of an EVEX encoding (R96). -/
def evexP2 (ll : BitVec 2) (b : BitVec 1) (k : Mask) : Byte := BitVec.ofBool k.z ++ ll ++ b ++ 1#1 ++ k.aaa

theorem encodeVex_eq (l : BitVec 1) (d : VReg) (src : RegMem) :
    encodeVex l d src = 0xC4 :: vexP1 d src.vexX src.bBit :: vexP2 l :: 0x13 :: src.tail (d.extractLsb' 0 3) := rfl

/-- `P1` of an EVEX encoding is the constant 7DH: W = 0, stored vvvv 1111b, the fixed 1, pp 01b (R97). -/
theorem encodeEvex_eq (map : BitVec 3) (ll : BitVec 2) (b : BitVec 1) (d : VReg) (k : Mask) (src : RegMem) :
    encodeEvex map ll b d k src =
      0x62 :: evexP0 d src.evexX src.bBit map :: 0x7D :: evexP2 ll b k :: 0x13 :: src.tail (d.extractLsb' 0 3) := rfl

@[simp] theorem vexP1_fields (d : VReg) (x b : BitVec 1) :
    invBit (vexP1 d x b) 7 = d.extractLsb' 3 1 ∧ invBit (vexP1 d x b) 6 = x ∧ invBit (vexP1 d x b) 5 = b ∧
      (vexP1 d x b).extractLsb' 0 5 = 2#5 := by
  simp (disch := decide) only [invBit, vexP1, BitVec.extractLsb'_append_eq_of_le,
    BitVec.extractLsb'_append_eq_of_add_le, Nat.reduceSub, BitVec.extractLsb'_eq_self, BitVec.not_not, and_self]

@[simp] theorem vexP2_fields (l : BitVec 1) :
    (vexP2 l).extractLsb' 7 1 = 0#1 ∧ (vexP2 l).extractLsb' 3 4 = 15#4 ∧ (vexP2 l).extractLsb' 2 1 = l ∧
      (vexP2 l).extractLsb' 0 2 = 1#2 := by
  simp (disch := decide) only [vexP2, BitVec.extractLsb'_append_eq_of_le,
    BitVec.extractLsb'_append_eq_of_add_le, Nat.reduceSub, BitVec.extractLsb'_eq_self, and_self]

@[simp] theorem evexP0_fields (d : VReg) (x b : BitVec 1) (map : BitVec 3) :
    invBit (evexP0 d x b map) 7 = d.extractLsb' 3 1 ∧ invBit (evexP0 d x b map) 6 = x ∧
      invBit (evexP0 d x b map) 5 = b ∧ invBit (evexP0 d x b map) 4 = d.extractLsb' 4 1 ∧
      (evexP0 d x b map).extractLsb' 3 1 = 0#1 ∧ (evexP0 d x b map).extractLsb' 0 3 = map := by
  simp (disch := decide) only [invBit, evexP0, BitVec.extractLsb'_append_eq_of_le,
    BitVec.extractLsb'_append_eq_of_add_le, Nat.reduceSub, BitVec.extractLsb'_eq_self, BitVec.not_not, and_self]

@[simp] theorem evexP2_fields (ll : BitVec 2) (b : BitVec 1) (k : Mask) :
    (evexP2 ll b k).extractLsb' 7 1 = BitVec.ofBool k.z ∧ (evexP2 ll b k).extractLsb' 5 2 = ll ∧
      (evexP2 ll b k).extractLsb' 4 1 = b ∧ (evexP2 ll b k).extractLsb' 3 1 = 1#1 ∧
      (evexP2 ll b k).extractLsb' 0 3 = k.aaa := by
  simp (disch := decide) only [evexP2, BitVec.extractLsb'_append_eq_of_le,
    BitVec.extractLsb'_append_eq_of_add_le, Nat.reduceSub, BitVec.extractLsb'_eq_self, and_self]

/-! ### What the parts of `Decode` read: ModRM, SIB and displacement -/

/-- `bytes` is `n` bytes and then `rest`. -/
def Consumes (n : Nat) (bytes rest : List Byte) : Prop := ∃ taken, taken.length = n ∧ bytes = taken ++ rest

theorem consumes_zero (bytes : List Byte) : Consumes 0 bytes bytes := ⟨[], rfl, rfl⟩

theorem Consumes.append {n : Nat} {bytes rest : List Byte} (h : Consumes n bytes rest) (before : List Byte) :
    Consumes (before.length + n) (before ++ bytes) rest := by
  obtain ⟨taken, rfl, rfl⟩ := h
  exact ⟨before ++ taken, List.length_append, (List.append_assoc ..).symm⟩

theorem takeDisp32_consumes {bytes rest : List Byte} {d : BitVec 32} (h : takeDisp32 bytes = some (d, rest)) :
    Consumes 4 bytes rest := by
  match bytes with
  | a :: b :: c :: e :: tail =>
    obtain ⟨-, rfl⟩ : _ ∧ tail = rest := by simpa [takeDisp32] using h
    exact ⟨[a, b, c, e], rfl, rfl⟩

/-- The displacement after ModRM or SIB: the bytes it takes, and that only `mod = 00b` announces none (R112). -/
theorem takeDisp_some {mod : BitVec 2} {bytes rest : List Byte} {disp : Disp}
    (h : takeDisp mod bytes = some (disp, rest)) : Consumes disp.len bytes rest ∧ (disp = .none → mod = 0#2) := by
  unfold takeDisp at h
  split at h
  · rename_i hmod
    obtain ⟨rfl, rfl⟩ : Disp.none = disp ∧ bytes = rest := by simpa using h
    exact ⟨consumes_zero bytes, fun _ => hmod⟩
  · split at h
    · cases bytes with
      | nil => simp at h
      | cons a tail =>
        obtain ⟨rfl, rfl⟩ : Disp.disp8 a = disp ∧ tail = rest := by simpa using h
        exact ⟨(consumes_zero tail).append [a], nofun⟩
    · obtain ⟨⟨d, tail⟩, hd, heq⟩ := Option.map_eq_some_iff.1 h
      obtain ⟨rfl, rfl⟩ : Disp.disp32 d = disp ∧ tail = rest := by simpa using heq
      exact ⟨takeDisp32_consumes hd, nofun⟩

/-- A memory operand that the SIB form yields is well-formed, of as many bytes as it takes (R114, R121). -/
theorem parseSib_some {x b : BitVec 1} {mod : BitVec 2} {bytes rest : List Byte} {m : MemOp}
    (h : parseSib x b mod bytes = some (m, rest)) : m.wf = true ∧ Consumes m.len bytes rest := by
  cases bytes with
  | nil => simp [parseSib] at h
  | cons sib tail =>
    rw [parseSib] at h
    split_ifs at h with hbase
    · obtain ⟨⟨d, after⟩, hd, heq⟩ := Option.map_eq_some_iff.1 h
      obtain ⟨rfl, rfl⟩ := Prod.mk.inj heq
      exact ⟨rfl, (takeDisp32_consumes hd).append [sib]⟩
    · obtain ⟨⟨disp, after⟩, hd, heq⟩ := Option.map_eq_some_iff.1 h
      obtain ⟨rfl, rfl⟩ := Prod.mk.inj heq
      obtain ⟨hlen, hnone⟩ := takeDisp_some hd
      refine ⟨?_, hlen.append [sib]⟩
      simpa [MemOp.wf, ← imp_iff_not_or] using fun hlow hdisp => hbase ⟨hnone hdisp, hlow⟩

/-- A memory operand that decodes is well-formed, of as many bytes as it takes (R112 to R114, R121). -/
theorem parseMem_some {x b : BitVec 1} {modrm : Byte} {bytes rest : List Byte} {m : MemOp}
    (h : parseMem x b modrm bytes = some (m, rest)) : m.wf = true ∧ Consumes m.len bytes rest := by
  unfold parseMem at h
  split at h
  · exact parseSib_some h
  · rename_i hsib
    split at h
    · obtain ⟨⟨d, after⟩, hd, heq⟩ := Option.map_eq_some_iff.1 h
      obtain ⟨rfl, rfl⟩ := Prod.mk.inj heq
      exact ⟨rfl, takeDisp32_consumes hd⟩
    · rename_i hrip
      obtain ⟨⟨disp, after⟩, hd, heq⟩ := Option.map_eq_some_iff.1 h
      obtain ⟨rfl, rfl⟩ := Prod.mk.inj heq
      obtain ⟨hlen, hnone⟩ := takeDisp_some hd
      refine ⟨?_, hlen⟩
      simpa [MemOp.wf, hsib, ← imp_iff_not_or] using fun hlow hdisp => hrip ⟨hnone hdisp, hlow⟩

/-- Operand 2 that decodes: a register by `mod = 11b`, of number `x4 b r/m`, or a memory operand (R111). -/
theorem parseRegMem_some {x4 x b : BitVec 1} {modrm : Byte} {bytes rest : List Byte} {src : RegMem}
    (h : parseRegMem x4 x b modrm bytes = some (src, rest)) :
    src.evexWf = true ∧ Consumes src.len bytes rest ∧ ∀ n, src = .reg n → n = x4 ++ b ++ low3 modrm := by
  unfold parseRegMem at h
  split at h
  · obtain ⟨rfl, rfl⟩ := Prod.mk.inj (Option.some.inj h)
    exact ⟨rfl, consumes_zero bytes, fun _ heq => (RegMem.reg.inj heq).symm⟩
  · obtain ⟨⟨m, after⟩, hm, heq⟩ := Option.map_eq_some_iff.1 h
    obtain ⟨rfl, rfl⟩ := Prod.mk.inj heq
    obtain ⟨hwf, hlen⟩ := parseMem_some hm
    exact ⟨hwf, hlen, nofun⟩

/-- A branch of `Decode` ends in an instruction exactly where its operand is complete. -/
theorem finish_eq_instr_iff {α : Type} {mk : α → Instr} {o : Option (α × List Byte)} {i : Instr} {rest : List Byte} :
    finish mk o = .instr i rest ↔ ∃ a, o = some (a, rest) ∧ i = mk a := by
  rcases o with _ | ⟨a, tail⟩
  · simp [finish]
  · simp only [finish, DecodeResult.instr.injEq, Option.some.injEq, Prod.mk.injEq]
    constructor
    · rintro ⟨rfl, rfl⟩
      exact ⟨a, ⟨rfl, rfl⟩, rfl⟩
    · rintro ⟨_, ⟨rfl, rfl⟩, rfl⟩
      exact ⟨rfl, rfl⟩

/-! ### What the parts of `Decode` read: the bytes of the encoder -/

theorem takeDisp32_bytes (d : BitVec 32) (rest : List Byte) :
    takeDisp32 ((Disp.disp32 d).bytes ++ rest) = some (d, rest) := by
  simp [Disp.bytes, takeDisp32]

theorem takeDisp_bytes (disp : Disp) (rest : List Byte) :
    takeDisp disp.mod (disp.bytes ++ rest) = some (disp, rest) := by
  cases disp with
  | none => rfl
  | disp8 d => rfl
  | disp32 d => simp [takeDisp, Disp.mod, takeDisp32_bytes]

theorem Disp.mod_ne_three (disp : Disp) : disp.mod ≠ 3#2 := by cases disp <;> simp [Disp.mod]

theorem Disp.mod_eq_zero_iff {disp : Disp} : disp.mod = 0#2 ↔ disp = .none := by cases disp <;> simp [Disp.mod]

/-- The bytes of a well-formed memory operand are read back, whatever follows (R111 to R117). -/
theorem MemOp.tail_parses (reg : BitVec 3) {m : MemOp} (hwf : m.wf = true) :
    ∃ modrm after, m.tail reg = modrm :: after ∧ mid3 modrm = reg ∧ top2 modrm ≠ 3#2 ∧
      ∀ rest, parseMem m.xBit m.bBit modrm (after ++ rest) = some (m, rest) := by
  cases m with
  | base b disp =>
    refine ⟨_, _, rfl, by simp, by simpa using disp.mod_ne_three, fun rest => ?_⟩
    obtain ⟨hsib, hrip⟩ : ¬ b.extractLsb' 0 3 = 4#3 ∧ ¬ (disp.mod = 0#2 ∧ b.extractLsb' 0 3 = 5#3) := by
      rw [Disp.mod_eq_zero_iff]
      simpa [MemOp.wf, imp_iff_not_or, or_comm] using hwf
    simp [parseMem, hsib, hrip, takeDisp_bytes, MemOp.bBit]
  | ripRel d =>
    refine ⟨_, _, rfl, by simp, by simp, fun rest => ?_⟩
    simp [parseMem, takeDisp32_bytes]
  | sib b idx scale disp =>
    refine ⟨_, _, rfl, by simp, by simpa using disp.mod_ne_three, fun rest => ?_⟩
    have hbase : ¬ (disp.mod = 0#2 ∧ b.extractLsb' 0 3 = 5#3) := by
      rw [Disp.mod_eq_zero_iff]
      simpa [MemOp.wf, imp_iff_not_or, or_comm] using hwf
    simp [parseMem, parseSib, hbase, takeDisp_bytes, MemOp.bBit, MemOp.xBit]
  | sibNoBase idx scale d =>
    refine ⟨_, _, rfl, by simp, by simp, fun rest => ?_⟩
    simp [parseMem, parseSib, takeDisp32_bytes, MemOp.xBit]

/-- The bytes of a well-formed operand 2 are read back, whatever follows, where the decoder has the extension bits
that the operand needs: `x4` bit 4 of a register (R95, R106), `x` bit 3 of an index register (R114). -/
theorem RegMem.tail_parses (reg : BitVec 3) {src : RegMem} {x4 x : BitVec 1} (hwf : src.evexWf = true)
    (hx4 : ∀ n, src = .reg n → x4 = n.extractLsb' 4 1) (hx : ∀ m, src = .mem m → x = m.xBit) :
    ∃ modrm after, src.tail reg = modrm :: after ∧ mid3 modrm = reg ∧
      ∀ rest, parseRegMem x4 x src.bBit modrm (after ++ rest) = some (src, rest) := by
  cases src with
  | reg n =>
    refine ⟨_, _, rfl, by simp, fun rest => ?_⟩
    simp [parseRegMem, RegMem.bBit, hx4 n rfl]
  | mem m =>
    obtain ⟨modrm, after, htail, hreg, hmod, hparse⟩ := MemOp.tail_parses reg hwf
    refine ⟨modrm, after, htail, hreg, fun rest => ?_⟩
    simp [parseRegMem, RegMem.bBit, hmod, hx m rfl, hparse]

/-! ### VEX and EVEX: each branch of `Decode` up to ModRM (R119) -/

/-- The destination of a VEX form (R95). -/
def vexDest (p1 modrm : Byte) : VReg := 0#1 ++ invBit p1 7 ++ mid3 modrm

/-- The form of a VEX encoding, by `L` (R87). -/
def vexForm (l : BitVec 1) : VReg → RegMem → Instr := if l = 0#1 then .vexPs128 else .vexPs256

section
variable {p1 p2 op modrm : Byte} {tail : List Byte}

theorem decode_vex_otherInstruction (h : p1.extractLsb' 0 5 ≠ 2#5 ∨ p2.extractLsb' 0 2 ≠ 1#2 ∨ op ≠ 0x13#8) :
    decode (0xC4 :: p1 :: p2 :: op :: tail) = .refused .otherInstruction :=
  if_pos h

/-- R88, R89: reserved W and vvvv are #UD before ModRM is looked at. -/
theorem decode_vex_reserved (hmap : p1.extractLsb' 0 5 = 2#5) (hpp : p2.extractLsb' 0 2 = 1#2)
    (h : p2.extractLsb' 7 1 = 1#1 ∨ p2.extractLsb' 3 4 ≠ 15#4) : decode (0xC4 :: p1 :: p2 :: 0x13 :: tail) = .ud := by
  rcases h with h | h <;> simp [decode, decodeVex, hmap, hpp, h]

/-- A VEX encoding whose fixed fields are those of the pair is read to its end. -/
theorem decode_vex (hmap : p1.extractLsb' 0 5 = 2#5) (hpp : p2.extractLsb' 0 2 = 1#2)
    (hw : p2.extractLsb' 7 1 ≠ 1#1) (hvvvv : p2.extractLsb' 3 4 = 15#4) :
    decode (0xC4 :: p1 :: p2 :: 0x13 :: modrm :: tail) =
      finish (vexForm (p2.extractLsb' 2 1) (vexDest p1 modrm))
        (parseRegMem 0#1 (invBit p1 6) (invBit p1 5) modrm tail) := by
  by_cases hl : p2.extractLsb' 2 1 = 0#1 <;>
    simp [decode, decodeVex, hmap, hpp, hw, hvvvv, hl, vexForm, vexDest]

end

/-- The destination of an EVEX form (R106). -/
def evexDest (p0 modrm : Byte) : VReg := invBit p0 4 ++ invBit p0 7 ++ mid3 modrm

/-- The register source of an EVEX form (R106). -/
def evexSrcReg (p0 modrm : Byte) : VReg := invBit p0 6 ++ invBit p0 5 ++ low3 modrm

/-- The mask fields of an EVEX form (R108, R109). -/
def evexMask (p2 : Byte) : Mask := ⟨p2.extractLsb' 0 3, p2.extractLsb' 7 1 == 1#1⟩

/-- The sae form of a map (R103). -/
def saeForm (psx : Bool) : VReg → Mask → VReg → Instr := if psx then .psx512Sae else .evexPs512Sae

theorem Mask.wf_iff {k : Mask} : k.wf = true ↔ ¬ (k.z = true ∧ k.aaa = 0#3) := by
  simp [Mask.wf, imp_iff_not_or]

/-- The decoder's check of R110 is well-formedness of the mask. -/
theorem ite_zeroing {α : Type} (k : Mask) (a b : α) :
    (if k.z = true ∧ k.aaa = 0#3 then a else b) = if k.wf then b else a := by
  simp only [Mask.wf_iff, ite_not]

/-- The fields of an EVEX encoding that R99, R100 and R104 fix, W, vvvv and V' among them. -/
structure EvexFixed (p0 p1 p2 : Byte) : Prop where
  p0Bit : p0.extractLsb' 3 1 = 0#1
  p1Bit : p1.extractLsb' 2 1 = 1#1
  w : p1.extractLsb' 7 1 ≠ 1#1
  vvvv : p1.extractLsb' 3 4 = 15#4
  v' : p2.extractLsb' 3 1 = 1#1

section
variable {p0 p1 p2 op modrm : Byte} {tail : List Byte}

/-- R99: a wrong fixed bit is #UD before map, pp and opcode are looked at. -/
theorem decode_evex_fixedBit (h : p0.extractLsb' 3 1 ≠ 0#1 ∨ p1.extractLsb' 2 1 ≠ 1#1) :
    decode (0x62 :: p0 :: p1 :: p2 :: op :: tail) = .ud :=
  if_pos h

theorem decode_evex_otherInstruction (h0 : p0.extractLsb' 3 1 = 0#1) (h1 : p1.extractLsb' 2 1 = 1#1)
    (h : (p0.extractLsb' 0 3 ≠ 2#3 ∧ p0.extractLsb' 0 3 ≠ 6#3) ∨ p1.extractLsb' 0 2 ≠ 1#2 ∨ op ≠ 0x13#8) :
    decode (0x62 :: p0 :: p1 :: p2 :: op :: tail) = .refused .otherInstruction :=
  (if_neg (by simp [h0, h1])).trans (if_pos h)

section
variable (hmap : p0.extractLsb' 0 3 = 2#3 ∨ p0.extractLsb' 0 3 = 6#3) (hpp : p1.extractLsb' 0 2 = 1#2)
include hmap hpp

/-- An EVEX encoding of the pair whose fixed fields are wrong is #UD, whatever follows (R99, R100, R104). -/
theorem decode_evex_not_fixed (h : ¬ EvexFixed p0 p1 p2) : decode (0x62 :: p0 :: p1 :: p2 :: 0x13 :: tail) = .ud := by
  by_cases hbits : p0.extractLsb' 3 1 ≠ 0#1 ∨ p1.extractLsb' 2 1 ≠ 1#1
  · exact decode_evex_fixedBit hbits
  · obtain ⟨h0, h1⟩ : p0.extractLsb' 3 1 = 0#1 ∧ p1.extractLsb' 2 1 = 1#1 := by simpa using hbits
    have hpair : ¬ ((p0.extractLsb' 0 3 ≠ 2#3 ∧ p0.extractLsb' 0 3 ≠ 6#3) ∨ p1.extractLsb' 0 2 ≠ 1#2 ∨
        (0x13 : Byte) ≠ 0x13#8) := by
      rcases hmap with hmap | hmap <;> simp [hmap, hpp]
    refine (if_neg hbits).trans ((if_neg hpair).trans ?_)
    split
    · rfl
    · rename_i hw
      refine if_pos (by_contra fun hv => h ?_)
      obtain ⟨hvvvv, hv'⟩ : p1.extractLsb' 3 4 = 15#4 ∧ p2.extractLsb' 3 1 = 1#1 := by simpa using hv
      exact ⟨h0, h1, hw, hvvvv, hv'⟩

/-- An EVEX encoding of the pair whose fixed fields are right is read on from ModRM. -/
theorem decode_evex (h : EvexFixed p0 p1 p2) :
    decode (0x62 :: p0 :: p1 :: p2 :: 0x13 :: tail) = decodeEvexTail (p0.extractLsb' 0 3 == 6#3) p0 p2 tail := by
  obtain ⟨h0, h1, hw, hvvvv, hv'⟩ := h
  rcases hmap with hmap | hmap <;> simp [decode, decodeEvex, h0, h1, hw, hvvvv, hv', hpp, hmap]

end

/-! ### From ModRM on: each branch -/

variable {psx : Bool}

/-- R103: `L'L` 01b and 11b are no sae encoding. -/
theorem decodeEvexTail_saeLength (hmod : top2 modrm = 3#2) (hb : p2.extractLsb' 4 1 = 1#1)
    (hll : p2.extractLsb' 5 2 = 1#2 ∨ p2.extractLsb' 5 2 = 3#2) :
    decodeEvexTail psx p0 p2 (modrm :: tail) = .refused .saeLength :=
  (if_pos ⟨hmod, hb⟩).trans (if_pos hll)

/-- R103, R110: the sae encoding, by its mask fields. -/
theorem decodeEvexTail_sae (hmod : top2 modrm = 3#2) (hb : p2.extractLsb' 4 1 = 1#1)
    (hll : p2.extractLsb' 5 2 = 0#2 ∨ p2.extractLsb' 5 2 = 2#2) :
    decodeEvexTail psx p0 p2 (modrm :: tail) =
      if (evexMask p2).wf then .instr (saeForm psx (evexDest p0 modrm) (evexMask p2) (evexSrcReg p0 modrm)) tail
      else .refused .zeroingWithoutMask := by
  have hlen : ¬ (p2.extractLsb' 5 2 = 1#2 ∨ p2.extractLsb' 5 2 = 3#2) := by
    rcases hll with h | h <;> simp [h]
  exact (if_pos ⟨hmod, hb⟩).trans ((if_neg hlen).trans (ite_zeroing ..))

/-- R101: `L'L` = 11b is #UD but for the sae encoding. -/
theorem decodeEvexTail_length_ud (h : ¬ (top2 modrm = 3#2 ∧ p2.extractLsb' 4 1 = 1#1))
    (hll : p2.extractLsb' 5 2 = 3#2) : decodeEvexTail psx p0 p2 (modrm :: tail) = .ud :=
  (if_neg h).trans (if_pos hll)

/-- R102 (d): map 2 has no broadcast. -/
theorem decodeEvexTail_broadcast_ud (hmod : top2 modrm ≠ 3#2) (hb : p2.extractLsb' 4 1 = 1#1) :
    decodeEvexTail false p0 p2 (modrm :: tail) = .ud := by
  simp [decodeEvexTail, hmod, hb]

/-- R102 (d), R110: a memory operand with `b = 1` in map 6 is broadcast. -/
theorem decodeEvexTail_broadcast (hmod : top2 modrm ≠ 3#2) (hb : p2.extractLsb' 4 1 = 1#1)
    (hll : p2.extractLsb' 5 2 ≠ 3#2) :
    decodeEvexTail true p0 p2 (modrm :: tail) =
      if (evexMask p2).wf then
        finish (bcstForm (p2.extractLsb' 5 2) (evexDest p0 modrm) (evexMask p2))
          (parseMem (invBit p0 6) (invBit p0 5) modrm tail)
      else .refused .zeroingWithoutMask := by
  rw [← ite_zeroing]
  simp [decodeEvexTail, evexMask, evexDest, hmod, hb, hll]

/-- R101, R110: the plain forms. -/
theorem decodeEvexTail_plain (hb : p2.extractLsb' 4 1 = 0#1) (hll : p2.extractLsb' 5 2 ≠ 3#2) :
    decodeEvexTail psx p0 p2 (modrm :: tail) =
      if (evexMask p2).wf then
        finish (plainForm psx (p2.extractLsb' 5 2) (evexDest p0 modrm) (evexMask p2))
          (parseRegMem (invBit p0 6) (invBit p0 6) (invBit p0 5) modrm tail)
      else .refused .zeroingWithoutMask := by
  rw [← ite_zeroing]
  simp [decodeEvexTail, evexMask, evexDest, hb, hll]

end

/-! ### What an instruction that decodes is made of -/

/-- A check of `Decode` that answers #UD is passed by what decodes. -/
theorem ite_ud_eq_instr_iff {c : Prop} [Decidable c] {r : DecodeResult} {i : Instr} {rest : List Byte} :
    (if c then .ud else r) = DecodeResult.instr i rest ↔ ¬ c ∧ r = .instr i rest := by
  split <;> simp [*]

/-- A check of `Decode` that refuses is passed by what decodes. -/
theorem ite_refused_eq_instr_iff {c : Prop} [Decidable c] {why : DecodeRefusal} {r : DecodeResult} {i : Instr}
    {rest : List Byte} : (if c then .refused why else r) = DecodeResult.instr i rest ↔ ¬ c ∧ r = .instr i rest := by
  split <;> simp [*]

/-- A VEX encoding that decodes is a VEX form whose operand 2 is read after ModRM. -/
theorem decode_vex_instr {bytes rest : List Byte} {i : Instr} (h : decode (0xC4 :: bytes) = .instr i rest) :
    ∃ p1 p2 modrm tail src, bytes = p1 :: p2 :: 0x13 :: modrm :: tail ∧
      parseRegMem 0#1 (invBit p1 6) (invBit p1 5) modrm tail = some (src, rest) ∧
      i = vexForm (p2.extractLsb' 2 1) (vexDest p1 modrm) src := by
  match bytes with
  | [] | [_] | [_, _] => cases h
  | p1 :: p2 :: op :: tail =>
    have hchecks : decodeVex (p1 :: p2 :: op :: tail) = .instr i rest := h
    simp only [decodeVex, ite_refused_eq_instr_iff, ite_ud_eq_instr_iff, ne_eq, not_or, not_not] at hchecks
    obtain ⟨⟨hmap, hpp, rfl⟩, hw, hvvvv, hend⟩ := hchecks
    cases tail with
    | nil => cases hend
    | cons modrm tail =>
      obtain ⟨src, hsrc, rfl⟩ := finish_eq_instr_iff.1 ((decode_vex hmap hpp hw hvvvv).symm.trans h)
      exact ⟨p1, p2, modrm, tail, src, rfl, hsrc, rfl⟩

/-- An EVEX encoding that decodes is what the branch answers from ModRM on. -/
theorem decode_evex_instr {bytes rest : List Byte} {i : Instr} (h : decode (0x62 :: bytes) = .instr i rest) :
    ∃ p0 p1 p2 tail, bytes = p0 :: p1 :: p2 :: 0x13 :: tail ∧
      decodeEvexTail (p0.extractLsb' 0 3 == 6#3) p0 p2 tail = .instr i rest := by
  match bytes with
  | [] | [_] | [_, _] | [_, _, _] => cases h
  | p0 :: p1 :: p2 :: op :: tail =>
    have hchecks : decodeEvex (p0 :: p1 :: p2 :: op :: tail) = .instr i rest := h
    simp only [decodeEvex, ite_refused_eq_instr_iff, ite_ud_eq_instr_iff, ne_eq, not_or, not_not] at hchecks
    obtain ⟨-, ⟨-, -, rfl⟩, -, -, htail⟩ := hchecks
    exact ⟨p0, p1, p2, tail, rfl, htail⟩

/-- R124 (a). -/
theorem decode_firstByte {b : Byte} {tail : List Byte} (hvex : b ≠ 0xC4) (hevex : b ≠ 0x62) :
    decode (b :: tail) = .refused (.firstByte b) :=
  (if_neg hvex).trans (if_neg hevex)

/-- What decodes begins with C4H or 62H. -/
theorem decode_instr {bytes rest : List Byte} {i : Instr} (h : decode bytes = .instr i rest) :
    ∃ tail, bytes = 0xC4 :: tail ∨ bytes = 0x62 :: tail := by
  cases bytes with
  | nil => cases h
  | cons b tail =>
    refine ⟨tail, by_contra fun hb => ?_⟩
    rw [decode_firstByte (fun hvex => hb (.inl (by rw [hvex]))) fun hevex => hb (.inr (by rw [hevex]))] at h
    cases h

/-- What the EVEX branch answers from ModRM on: an sae form, a broadcast form or a plain form, with a legal mask. -/
theorem decodeEvexTail_instr {psx : Bool} {p0 p2 : Byte} {tail rest : List Byte} {i : Instr}
    (h : decodeEvexTail psx p0 p2 tail = .instr i rest) :
    (evexMask p2).wf = true ∧ ∃ modrm after, tail = modrm :: after ∧
      ((top2 modrm = 3#2 ∧ p2.extractLsb' 4 1 = 1#1 ∧ after = rest ∧
          i = saeForm psx (evexDest p0 modrm) (evexMask p2) (evexSrcReg p0 modrm)) ∨
        (top2 modrm ≠ 3#2 ∧ p2.extractLsb' 4 1 = 1#1 ∧ p2.extractLsb' 5 2 ≠ 3#2 ∧
          ∃ m, parseMem (invBit p0 6) (invBit p0 5) modrm after = some (m, rest) ∧
            i = bcstForm (p2.extractLsb' 5 2) (evexDest p0 modrm) (evexMask p2) m) ∨
        (p2.extractLsb' 4 1 ≠ 1#1 ∧
          ∃ src, parseRegMem (invBit p0 6) (invBit p0 6) (invBit p0 5) modrm after = some (src, rest) ∧
            i = plainForm psx (p2.extractLsb' 5 2) (evexDest p0 modrm) (evexMask p2) src)) := by
  cases tail with
  | nil => cases h
  | cons modrm after =>
    rw [decodeEvexTail] at h
    split at h
    · rename_i hsae
      simp only [ite_refused_eq_instr_iff, DecodeResult.instr.injEq] at h
      obtain ⟨-, hmask, rfl, hrest⟩ := h
      exact ⟨Mask.wf_iff.2 hmask, modrm, after, rfl, .inl ⟨hsae.1, hsae.2, hrest, rfl⟩⟩
    · rename_i hsae
      simp only [ite_refused_eq_instr_iff, ite_ud_eq_instr_iff] at h
      obtain ⟨hll, -, hmask, hend⟩ := h
      refine ⟨Mask.wf_iff.2 hmask, modrm, after, rfl, .inr ?_⟩
      split at hend
      · rename_i hb
        exact .inl ⟨fun hmod => hsae ⟨hmod, hb⟩, hb, hll, finish_eq_instr_iff.1 hend⟩
      · rename_i hb
        exact .inr ⟨hb, finish_eq_instr_iff.1 hend⟩

/-! ### Well-formedness and length of what decodes -/

/-- Every instruction has the length that its kind of encoding and its operand 2 give it (R121). -/
theorem Instr.len_eq (i : Instr) : i.len = if i.form.vex then vexLen i.source else evexLen i.source := by
  cases i <;> rfl

theorem MemOp.len_le (m : MemOp) : m.len ≤ 5 := by
  have hdisp (disp : Disp) : disp.len ≤ 4 := by cases disp <;> simp [Disp.len]
  cases m with
  | base b disp => exact (hdisp disp).trans (by decide)
  | ripRel d => exact Nat.le_succ 4
  | sib b idx scale disp => exact Nat.add_le_add_left (hdisp disp) 1
  | sibNoBase idx scale d => exact le_rfl

theorem RegMem.len_le (src : RegMem) : src.len ≤ 5 := by
  cases src with
  | reg n => exact Nat.zero_le 5
  | mem m => exact m.len_le

/-- R81: 5 to 10 bytes for a VEX form, 6 to 11 for an EVEX form. -/
theorem Instr.len_bounds (i : Instr) : if i.form.vex then 5 ≤ i.len ∧ i.len ≤ 10 else 6 ≤ i.len ∧ i.len ≤ 11 := by
  have hsrc := i.source.len_le
  rw [i.len_eq]
  split <;> simp only [vexLen, evexLen] <;> omega

section
variable (d : VReg) (k : Mask) (ll : BitVec 2) (psx : Bool)

theorem vexForm_wf_len (l : BitVec 1) (src : RegMem) :
    (vexForm l d src).wf = (VReg.vexWf d && src.vexWf) ∧ (vexForm l d src).len = vexLen src := by
  unfold vexForm
  split <;> exact ⟨rfl, rfl⟩

theorem saeForm_wf_len (n : VReg) : (saeForm psx d k n).wf = k.wf ∧ (saeForm psx d k n).len = evexLen (.reg n) := by
  cases psx <;> exact ⟨rfl, rfl⟩

theorem bcstForm_wf_len (m : MemOp) :
    (bcstForm ll d k m).wf = (k.wf && m.wf) ∧ (bcstForm ll d k m).len = evexLen (.mem m) := by
  unfold bcstForm
  split_ifs <;> exact ⟨rfl, rfl⟩

theorem plainForm_wf_len (src : RegMem) :
    (plainForm psx ll d k src).wf = (k.wf && src.evexWf) ∧ (plainForm psx ll d k src).len = evexLen src := by
  unfold plainForm
  split_ifs <;> exact ⟨rfl, rfl⟩

end

/-- A register number without bit 4 is one that a VEX form can name (R95). -/
theorem VReg.vexWf_zero_append (b : BitVec 1) (lo : BitVec 3) : VReg.vexWf (0#1 ++ b ++ lo) = true := by
  rw [VReg.vexWf, beq_iff_eq]
  simp (disch := decide) only [BitVec.extractLsb'_append_eq_of_le, Nat.reduceSub, BitVec.extractLsb'_eq_self]

/-- Operand 2 of a VEX encoding is well-formed: bit 4 of a register is 0 (R95). -/
theorem parseRegMem_vexWf {x b : BitVec 1} {modrm : Byte} {bytes rest : List Byte} {src : RegMem}
    (h : parseRegMem 0#1 x b modrm bytes = some (src, rest)) : src.vexWf = true := by
  obtain ⟨hwf, -, hreg⟩ := parseRegMem_some h
  cases src with
  | reg n =>
    rw [hreg n rfl]
    exact VReg.vexWf_zero_append b (low3 modrm)
  | mem m => exact hwf

/-- What decodes is well-formed and takes its length of the bytes (R95, R110, R112, R114, R121). -/
theorem decode_wf_consumes {bytes rest : List Byte} {i : Instr} (h : decode bytes = .instr i rest) :
    i.wf = true ∧ Consumes i.len bytes rest := by
  obtain ⟨tail, rfl | rfl⟩ := decode_instr h
  · obtain ⟨p1, p2, modrm, after, src, rfl, hsrc, rfl⟩ := decode_vex_instr h
    obtain ⟨-, hlen, -⟩ := parseRegMem_some hsrc
    obtain ⟨hformWf, hformLen⟩ := vexForm_wf_len (vexDest p1 modrm) (p2.extractLsb' 2 1) src
    rw [hformWf, hformLen, parseRegMem_vexWf hsrc, Bool.and_true]
    exact ⟨VReg.vexWf_zero_append .., hlen.append [0xC4, p1, p2, 0x13, modrm]⟩
  · obtain ⟨p0, p1, p2, tail, rfl, htail⟩ := decode_evex_instr h
    obtain ⟨hmask, modrm, after, rfl, hform⟩ := decodeEvexTail_instr htail
    rcases hform with ⟨-, -, rfl, rfl⟩ | ⟨-, -, -, m, hm, rfl⟩ | ⟨-, src, hsrc, rfl⟩
    · obtain ⟨hformWf, hformLen⟩ := saeForm_wf_len (evexDest p0 modrm) (evexMask p2) (p0.extractLsb' 0 3 == 6#3)
        (evexSrcReg p0 modrm)
      rw [hformWf, hformLen]
      exact ⟨hmask, (consumes_zero after).append [0x62, p0, p1, p2, 0x13, modrm]⟩
    · obtain ⟨hwf, hlen⟩ := parseMem_some hm
      obtain ⟨hformWf, hformLen⟩ := bcstForm_wf_len (evexDest p0 modrm) (evexMask p2) (p2.extractLsb' 5 2) m
      rw [hformWf, hformLen, hmask, hwf]
      exact ⟨rfl, hlen.append [0x62, p0, p1, p2, 0x13, modrm]⟩
    · obtain ⟨hwf, hlen, -⟩ := parseRegMem_some hsrc
      obtain ⟨hformWf, hformLen⟩ := plainForm_wf_len (evexDest p0 modrm) (evexMask p2) (p2.extractLsb' 5 2)
        (p0.extractLsb' 0 3 == 6#3) src
      rw [hformWf, hformLen, hmask, hwf]
      exact ⟨rfl, hlen.append [0x62, p0, p1, p2, 0x13, modrm]⟩

/-- Settles O2. -/
theorem decodedInstructionIsWellFormed : Obligations.DecodedInstructionIsWellFormed := fun _ _ _ h =>
  (decode_wf_consumes h).1

/-- Settles O3. -/
theorem decodeConsumesLength : Obligations.DecodeConsumesLength := by
  intro bytes rest i h
  obtain ⟨taken, hlen, rfl⟩ := (decode_wf_consumes h).2
  rw [← hlen, List.length_append, List.drop_left, hlen]
  exact ⟨rfl, rfl, i.len_bounds⟩

/-! ### The decoder reads what the encoder writes -/

theorem RegMem.evexWf_of_vexWf {src : RegMem} (h : src.vexWf = true) : src.evexWf = true := by
  cases src with
  | reg n => rfl
  | mem m => exact h

theorem VReg.vexWf_iff {n : VReg} : VReg.vexWf n = true ↔ n.extractLsb' 4 1 = 0#1 := by simp [VReg.vexWf]

/-- R84, R85, R119: a VEX encoding of a well-formed instruction decodes to it. -/
theorem decode_encodeVex (l : BitVec 1) {d : VReg} {src : RegMem} (hd : VReg.vexWf d = true) (hsrc : src.vexWf = true)
    (rest : List Byte) : decode (encodeVex l d src ++ rest) = .instr (vexForm l d src) rest := by
  have hx4 (n : VReg) (hn : src = .reg n) : 0#1 = n.extractLsb' 4 1 := by
    subst hn
    exact (VReg.vexWf_iff.1 hsrc).symm
  have hx (m : MemOp) (hm : src = .mem m) : src.vexX = m.xBit := by rw [hm, RegMem.vexX]
  obtain ⟨modrm, after, htail, hreg, hparse⟩ :=
    RegMem.tail_parses (d.extractLsb' 0 3) (RegMem.evexWf_of_vexWf hsrc) hx4 hx
  have hdest : vexDest (vexP1 d src.vexX src.bBit) modrm = d := by
    rw [vexDest, hreg, ← VReg.vexWf_iff.1 hd]
    simp
  rw [encodeVex_eq, htail]
  simp only [List.cons_append]
  rw [decode_vex (by simp) (by simp) (by simp) (by simp), finish_eq_instr_iff]
  exact ⟨src, by simpa using hparse rest, by simp [hdest]⟩

/-- The map of an EVEX form (R96, R122). -/
def evexMap (psx : Bool) : BitVec 3 := if psx then 6#3 else 2#3

section
variable (psx : Bool) (ll : BitVec 2) (b : BitVec 1) (d : VReg) (k : Mask)

@[simp] theorem evexMask_evexP2 : evexMask (evexP2 ll b k) = k := by
  obtain ⟨aaa, z⟩ := k
  cases z <;> simp [evexMask]

theorem evexDest_evexP0 (x bx : BitVec 1) (map : BitVec 3) {modrm : Byte} (h : mid3 modrm = d.extractLsb' 0 3) :
    evexDest (evexP0 d x bx map) modrm = d := by
  simp [evexDest, h]

/-- The encoder's fixed fields are legal (R97), and the decoder goes on at ModRM. -/
theorem decode_encodeEvex (src : RegMem) (rest : List Byte) :
    decode (encodeEvex (evexMap psx) ll b d k src ++ rest) =
      decodeEvexTail psx (evexP0 d src.evexX src.bBit (evexMap psx)) (evexP2 ll b k)
        (src.tail (d.extractLsb' 0 3) ++ rest) := by
  have hmap : (evexMap psx == 6#3) = psx := by cases psx <;> rfl
  rw [encodeEvex_eq]
  simp only [List.cons_append]
  rw [decode_evex (by cases psx <;> simp [evexMap]) (by decide) ⟨by simp, by decide, by decide, by decide, by simp⟩]
  simp [hmap]

end

section
variable (psx : Bool) {ll : BitVec 2} (d : VReg) {k : Mask} (hk : k.wf = true) (rest : List Byte)
include hk

/-- R101, R119: the encoding of a plain EVEX form decodes to it. -/
theorem decode_encodeEvex_plain (hll : ll ≠ 3#2) {src : RegMem} (hsrc : src.evexWf = true) :
    decode (encodeEvex (evexMap psx) ll 0#1 d k src ++ rest) = .instr (plainForm psx ll d k src) rest := by
  have hx4 (n : VReg) (hn : src = .reg n) : src.evexX = n.extractLsb' 4 1 := by rw [hn, RegMem.evexX]
  have hx (m : MemOp) (hm : src = .mem m) : src.evexX = m.xBit := by rw [hm, RegMem.evexX]
  obtain ⟨modrm, after, htail, hreg, hparse⟩ := RegMem.tail_parses (d.extractLsb' 0 3) hsrc hx4 hx
  rw [decode_encodeEvex, htail, List.cons_append, decodeEvexTail_plain (by simp) (by simpa using hll), evexMask_evexP2,
    if_pos hk, finish_eq_instr_iff, evexDest_evexP0 d _ _ _ hreg]
  exact ⟨src, by simpa using hparse rest, by simp⟩

/-- R102 (d), R119: the encoding of a broadcast form decodes to it. -/
theorem decode_encodeEvex_broadcast (hll : ll ≠ 3#2) {m : MemOp} (hm : m.wf = true) :
    decode (encodeEvex 6#3 ll 1#1 d k (.mem m) ++ rest) = .instr (bcstForm ll d k m) rest := by
  obtain ⟨modrm, after, htail, hreg, hmod, hparse⟩ := MemOp.tail_parses (d.extractLsb' 0 3) hm
  rw [show (6#3 : BitVec 3) = evexMap true from rfl, decode_encodeEvex, RegMem.tail, htail, List.cons_append,
    decodeEvexTail_broadcast hmod (by simp) (by simpa using hll), evexMask_evexP2, if_pos hk, finish_eq_instr_iff,
    evexDest_evexP0 d _ _ _ hreg]
  exact ⟨m, by simpa [RegMem.evexX, RegMem.bBit] using hparse rest, by simp⟩

/-- R103, R119: the encoding of an sae form decodes to it. -/
theorem decode_encodeEvex_sae (n : VReg) :
    decode (encodeEvex (evexMap psx) 0#2 1#1 d k (.reg n) ++ rest) = .instr (saeForm psx d k n) rest := by
  rw [decode_encodeEvex, RegMem.tail, List.cons_append, decodeEvexTail_sae (by simp) (by simp) (by simp),
    evexMask_evexP2, if_pos hk, evexDest_evexP0 d _ _ _ (by simp)]
  simp [evexSrcReg, RegMem.evexX, RegMem.bBit]

end

/-- Settles O1: one argument for the VEX forms, one each for the plain, the broadcast and the sae EVEX forms. -/
theorem decodeEncodeRoundTrip : Obligations.DecodeEncodeRoundTrip := by
  intro i rest hwf
  cases i with
  | vexPs128 d src | vexPs256 d src =>
    obtain ⟨hd, hsrc⟩ := Bool.and_eq_true_iff.1 hwf
    exact decode_encodeVex _ hd hsrc rest
  | evexPs128 d k src | evexPs256 d k src | evexPs512 d k src =>
    obtain ⟨hk, hsrc⟩ := Bool.and_eq_true_iff.1 hwf
    exact decode_encodeEvex_plain false d hk rest (by decide) hsrc
  | psx128 d k src | psx256 d k src | psx512 d k src =>
    obtain ⟨hk, hsrc⟩ := Bool.and_eq_true_iff.1 hwf
    exact decode_encodeEvex_plain true d hk rest (by decide) hsrc
  | psx128Bcst d k m | psx256Bcst d k m | psx512Bcst d k m =>
    obtain ⟨hk, hm⟩ := Bool.and_eq_true_iff.1 hwf
    exact decode_encodeEvex_broadcast d hk rest (by decide) hm
  | evexPs512Sae d k n => exact decode_encodeEvex_sae false d hwf rest n
  | psx512Sae d k n => exact decode_encodeEvex_sae true d hwf rest n

/-! ### What sae and broadcast encodings decode to -/

theorem bcstForm_suppresses_broadcasts (ll : BitVec 2) (d : VReg) (k : Mask) (m : MemOp) :
    (bcstForm ll d k m).suppresses = false ∧ (bcstForm ll d k m).broadcasts = true := by
  unfold bcstForm
  split_ifs <;> exact ⟨rfl, rfl⟩

/-- R101, R102 (d): the vector length of a broadcast form. -/
theorem bcstForm_vl {ll : BitVec 2} (hll : ll ≠ 3#2) (d : VReg) (k : Mask) (m : MemOp) :
    (bcstForm ll d k m).form.vl = 128 * 2 ^ ll.toNat := by
  have hcases : ∀ l : BitVec 2, l ≠ 3#2 → l = 0#2 ∨ l = 1#2 ∨ l = 2#2 := by decide
  rcases hcases ll hll with rfl | rfl | rfl <;> rfl

/-- Settles O9: of the three kinds that the EVEX branch answers, b = 1 leaves sae with `mod` = 11b and broadcast
without. -/
theorem modSelectsSaeOrBroadcast : Obligations.ModSelectsSaeOrBroadcast := by
  intro p0 p2 modrm tail rest i hmap hb h
  obtain ⟨p0', p1, p2', after, hbytes, htail⟩ := decode_evex_instr h
  obtain ⟨rfl, -, rfl, -, rfl⟩ : p0 = p0' ∧ 0x7D = p1 ∧ p2 = p2' ∧ (0x13 : Byte) = 0x13 ∧ modrm :: tail = after := by
    simpa using hbytes
  rw [hmap] at htail
  obtain ⟨-, modrm', after, hcons, hform⟩ := decodeEvexTail_instr htail
  obtain ⟨rfl, rfl⟩ := List.cons.inj hcons
  rcases hform with ⟨hmod, -, -, rfl⟩ | ⟨hmod, -, hll, m, -, rfl⟩ | ⟨hplain, -⟩
  · exact ⟨fun _ => ⟨rfl, rfl, rfl⟩, fun h => absurd hmod h⟩
  · obtain ⟨hsae, hbcst⟩ := bcstForm_suppresses_broadcasts (p2.extractLsb' 5 2) (evexDest p0 modrm) (evexMask p2) m
    exact ⟨fun h => absurd h hmod, fun _ => ⟨hsae, hbcst, bcstForm_vl hll ..⟩⟩
  · exact absurd hb hplain

/-- 7DH is a legal `P1` (R97): what is left of the fixed fields stands in `P0` and `P2`. -/
theorem evexFixed_7D {p0 p2 : Byte} (h0 : p0.extractLsb' 3 1 = 0#1) (hv' : p2.extractLsb' 3 1 = 1#1) :
    EvexFixed p0 0x7D p2 :=
  ⟨h0, by decide, by decide, by decide, hv'⟩

/-- Settles O10. -/
theorem saeEncodingDecodes : Obligations.SaeEncodingDecodes := by
  intro p0 p2 modrm tail h0 hv' hb hmod hll hmask d n k hd hn hk
  have hwf : (evexMask p2).wf = true := Mask.wf_iff.2 (by simpa [evexMask] using hmask)
  have hdecode (hmap : p0.extractLsb' 0 3 = 2#3 ∨ p0.extractLsb' 0 3 = 6#3) :
      decode (0x62 :: p0 :: 0x7D :: p2 :: 0x13 :: modrm :: tail) =
        .instr (saeForm (p0.extractLsb' 0 3 == 6#3) d k n) tail := by
    rw [decode_evex hmap (by decide) (evexFixed_7D h0 hv'), decodeEvexTail_sae hmod hb hll, if_pos hwf, hd, hn, hk]
    rfl
  constructor
  · intro hmap
    rw [hdecode (.inl hmap), hmap]
    rfl
  · intro hmap
    rw [hdecode (.inr hmap), hmap]
    rfl

/-- Settles O4. -/
theorem specWordsDecode : Obligations.SpecWordsDecode := by
  unfold Obligations.SpecWordsDecode
  decide

/-! ### What the decoder refuses -/

/-- Settles O8: R124 (a) and (b) by the checks before ModRM, (c) and (d) by those from ModRM on. -/
theorem refusedEncodings : Obligations.RefusedEncodings := by
  refine ⟨fun _ _ => decode_firstByte, fun _ _ _ _ => decode_vex_otherInstruction,
    fun _ _ _ _ _ => decode_evex_otherInstruction, fun p0 p2 modrm tail h0 hmap hv' => ?_⟩
  rw [decode_evex hmap (by decide) (evexFixed_7D h0 hv')]
  constructor
  · intro hz haaa hkind
    have hmask : ¬ (evexMask p2).wf = true := by simp [Mask.wf_iff, evexMask, hz, haaa]
    rcases hkind with ⟨hb, hll⟩ | ⟨hb, hmod, hll⟩ | ⟨hb, hmod, hmap6, hll⟩
    · rw [decodeEvexTail_plain hb hll, if_neg hmask]
    · rw [decodeEvexTail_sae hmod hb hll, if_neg hmask]
    · rw [hmap6, beq_self_eq_true, decodeEvexTail_broadcast hmod hb hll, if_neg hmask]
  · intro hmod hb hll
    exact decodeEvexTail_saeLength hmod hb hll

end Sys2Proof
end

section
/-! PROOFS. The statements of 30_encoding.md that speak of the machine, with those of 20_memory.md and 60_exceptions.md
that rest on what an instruction names: illegal encodings in a step, forms that the processor does not allow, and the
address of a memory operand. -/

namespace Sys2Proof.Machine

open Sys2Proof

/-! ### Illegal encodings in a step -/

/-- Under the launch premise a step whose bytes are an illegal encoding is #UD (R203). -/
theorem step_of_ud {s : State} {bytes : List Byte} (hok : LaunchOk s) (hfetch : fetch s = .ok bytes)
    (hdecode : decode bytes = .ud) : step s = .fault (.exception .ud s.pc s) := by
  rw [step_of_fetch hfetch hok, hdecode, illegalEncoding, raise_eq]

/-- Settles O5. -/
theorem vexReservedFieldRaisesUd : Obligations.VexReservedFieldRaisesUd :=
  fun _ _ _ _ hok hfetch hmap hpp hreserved => step_of_ud hok hfetch (decode_vex_reserved hmap hpp hreserved)

/-- Settles O6. -/
theorem evexReservedFieldRaisesUd : Obligations.EvexReservedFieldRaisesUd := by
  intro s p0 p1 p2 opcode tail hok hfetch h
  refine step_of_ud hok hfetch ?_
  rcases h with h | h | ⟨hmap, hpp, rfl, hreserved⟩
  · exact decode_evex_fixedBit (.inl (by simp [h]))
  · exact decode_evex_fixedBit (.inr (by simp [h]))
  · refine decode_evex_not_fixed hmap hpp fun hfixed => ?_
    rcases hreserved with hw | hvvvv | hv'
    · exact hfixed.w hw
    · exact hvvvv hfixed.vvvv
    · exact absurd (hv'.symm.trans hfixed.v') (by decide)

/-- Settles O7: whether the fixed fields are right or not, the encoding is #UD. -/
theorem evexLengthOrBroadcastRaisesUd : Obligations.EvexLengthOrBroadcastRaisesUd := by
  intro s p0 p1 p2 modrm tail hok hfetch hmap hpp h
  refine step_of_ud hok hfetch ?_
  by_cases hfixed : EvexFixed p0 p1 p2
  · rw [decode_evex hmap hpp hfixed]
    rcases h with ⟨hll, hsae⟩ | ⟨hmap2, hmod, hb⟩
    · exact decodeEvexTail_length_ud hsae hll
    · rw [hmap2]
      exact decodeEvexTail_broadcast_ud hmod hb
  · exact decode_evex_not_fixed hmap hpp hfixed

/-! ### Forms that the processor does not allow -/

/-- Settles O44: the mode is the first check of a form, what the form needs the second. -/
theorem disabledFormRaisesUd : Obligations.DisabledFormRaisesUd := by
  intro i s h
  suffices hstop : accessStop i.form i.dest i.source s = some (.raises .ud) from exec_of_accessStop hstop
  rcases h with hmode | hmode | ⟨hmode, hlacks⟩
  · exact accessStop_of_modeStop (by rw [modeStop, hmode])
  · exact accessStop_of_modeStop (by rw [modeStop, hmode])
  · have hun : formUnavailable i.form i.dest i.source s = true := by
      simpa [formUnavailable, or_assoc] using hlacks
    simp only [accessStop, modeStop, hmode, hun, if_true]

/-! ### The address of a memory operand -/

/-- An index register is multiplied by `2^scale` (R114). -/
theorem indexTerm_of_ne (s : State) {x : GReg} (hx : x ≠ 4) (sc : BitVec 2) :
    indexTerm s x sc = s.readG x * BitVec.ofNat 64 (2 ^ sc.toNat) := by
  have hpow : BitVec.twoPow 64 sc.toNat = BitVec.ofNat 64 (2 ^ sc.toNat) :=
    BitVec.eq_of_toNat_eq (by rw [BitVec.toNat_twoPow, BitVec.toNat_ofNat])
  exact (if_neg hx).trans (by rw [BitVec.shiftLeft_eq_mul_twoPow, hpow])

/-- Index number 0100b is no index (R114). -/
theorem indexTerm_four (s : State) (sc : BitVec 2) : indexTerm s 4 sc = 0#64 := if_pos rfl

/-- Base, index and displacement (R114). -/
theorem address_sib (i : Instr) (s : State) (b : GReg) {x : GReg} (hx : x ≠ 4) (sc : BitVec 2) (disp : Disp) :
    i.address s (.sib b x sc disp) =
      s.readG b + s.readG x * BitVec.ofNat 64 (2 ^ sc.toNat) + dispTerm i.scaleN disp := by
  rw [Instr.address, effectiveAddress, indexTerm_of_ne s hx]

/-- Base and displacement, without an index (R114). -/
theorem address_sib_four (i : Instr) (s : State) (b : GReg) (sc : BitVec 2) (disp : Disp) :
    i.address s (.sib b 4 sc disp) = s.readG b + dispTerm i.scaleN disp := by
  rw [Instr.address, effectiveAddress, indexTerm_four, BitVec.add_zero]

/-- Settles O39, addressing form by addressing form. -/
theorem memoryOperandAddress : Obligations.MemoryOperandAddress := by
  intro i s
  refine ⟨fun n hn => ?_, fun b x sc hx => ?_, fun b x sc d hx => ?_, fun b sc => ?_, fun b sc d => ?_,
    fun x sc d hx => ?_, fun sc d => ?_, fun d => rfl⟩
  · obtain rfl : n = i.scaleN := hn
    exact ⟨fun b => BitVec.add_zero _, fun b d => rfl, fun b d => rfl,
      fun b x sc d hx => address_sib i s b hx sc (.disp8 d), fun b sc d => address_sib_four i s b sc (.disp8 d)⟩
  · exact (address_sib i s b hx sc .none).trans (BitVec.add_zero _)
  · exact address_sib i s b hx sc (.disp32 d)
  · exact (address_sib_four i s b sc .none).trans (BitVec.add_zero _)
  · exact address_sib_four i s b sc (.disp32 d)
  · rw [← indexTerm_of_ne s hx]
    rfl
  · rw [Instr.address, effectiveAddress, indexTerm_four, BitVec.zero_add]

end Sys2Proof.Machine
end

section
/-! PROOFS. The statements of 40_convert_element.md: the conversion class by class, and what follows of every result. -/

namespace Sys2Proof.Machine

open Sys2Proof

/-! ### The classes of FP16 (R131) -/

/-- The five classes: zero, denormal, normal, infinity, NaN. -/
theorem half_class_cases (h : Half) :
    (halfExp h = 0#5 ∧ halfFrac h = 0#10) ∨ (halfExp h = 0#5 ∧ halfFrac h ≠ 0#10) ∨
    (1 ≤ (halfExp h).toNat ∧ (halfExp h).toNat ≤ 30) ∨
    (halfExp h = 31#5 ∧ halfFrac h = 0#10) ∨ (halfExp h = 31#5 ∧ halfFrac h ≠ 0#10) := by
  rcases eq_or_ne (halfExp h) 0#5 with h0 | h0
  · rcases eq_or_ne (halfFrac h) 0#10 with hf | hf
    · exact .inl ⟨h0, hf⟩
    · exact .inr (.inl ⟨h0, hf⟩)
  rcases eq_or_ne (halfExp h) 31#5 with h31 | h31
  · rcases eq_or_ne (halfFrac h) 0#10 with hf | hf
    · exact .inr (.inr (.inr (.inl ⟨h31, hf⟩)))
    · exact .inr (.inr (.inr (.inr ⟨h31, hf⟩)))
  · refine .inr (.inr (.inl ?_))
    bv_omega

/-- A NaN has exponent 31 and a fraction that is not 0. -/
theorem isHalfNaN_iff {h : Half} : isHalfNaN h = true ↔ halfExp h = 31#5 ∧ halfFrac h ≠ 0#10 := by
  simp [isHalfNaN]

/-! ### The result of each class (R139) -/

section
variable {cfg : List (Half × Single)} {h : Half}

theorem cvtH2s_zero (he : halfExp h = 0#5) (hf : halfFrac h = 0#10) :
    cvtH2s cfg h = (packSingle (halfSign h) 0#8 0#23, ⟨false, false⟩) := by
  simp [cvtH2s, he, hf]

theorem cvtH2s_denormal (he : halfExp h = 0#5) (hf : halfFrac h ≠ 0#10) :
    cvtH2s cfg h =
      (packSingle (halfSign h) (BitVec.ofNat 8 (msbIndex (halfFrac h) + 103))
        (BitVec.ofNat 23 ((halfFrac h).toNat * 2 ^ (23 - msbIndex (halfFrac h)))), ⟨false, true⟩) := by
  simp [cvtH2s, he, hf]

theorem cvtH2s_normal (h1 : 1 ≤ (halfExp h).toNat) (h30 : (halfExp h).toNat ≤ 30) :
    cvtH2s cfg h =
      (packSingle (halfSign h) (BitVec.ofNat 8 ((halfExp h).toNat + 112)) (halfFrac h ++ 0#13), ⟨false, false⟩) := by
  have h0 : halfExp h ≠ 0#5 := by bv_omega
  have h31 : halfExp h ≠ 31#5 := by bv_omega
  simp [cvtH2s, h0, h31]

theorem cvtH2s_infinity (he : halfExp h = 31#5) (hf : halfFrac h = 0#10) :
    cvtH2s cfg h = (packSingle (halfSign h) 255#8 0#23, ⟨false, false⟩) := by
  simp [cvtH2s, he, hf]

theorem cvtH2s_nan (he : halfExp h = 31#5) (hf : halfFrac h ≠ 0#10) :
    cvtH2s cfg h = (cvtNaN cfg h, ⟨!(halfFrac h).getLsbD 9, false⟩) := by
  simp [cvtH2s, he, hf]

end

/-! ### The most significant fraction bit (R135) -/

/-- Below `n`, where some bit is set, `msbBelow` is the most significant one. -/
theorem msbBelow_spec (f : BitVec 10) {n b : Nat} (hb : b < n) (hset : f.getLsbD b = true) :
    msbBelow f n < n ∧ f.getLsbD (msbBelow f n) = true ∧
      ∀ q, msbBelow f n < q → q < n → f.getLsbD q = false := by
  induction n with
  | zero => omega
  | succ n ih =>
    rw [msbBelow]
    split
    · rename_i htop
      exact ⟨Nat.lt_succ_self n, htop, fun q hlt hle => by omega⟩
    · rename_i htop
      have hbn : b < n := by
        rcases Nat.lt_succ_iff_lt_or_eq.1 hb with hlt | rfl
        · exact hlt
        · exact absurd hset htop
      obtain ⟨hlt, hmsb, habove⟩ := ih hbn
      refine ⟨by omega, hmsb, fun q hq hqn => ?_⟩
      rcases Nat.lt_succ_iff_lt_or_eq.1 hqn with hqn | rfl
      · exact habove q hq hqn
      · simpa using htop

/-- A fraction that is not 0 has its most significant 1 at `msbIndex`. -/
theorem msbIndex_spec {f : BitVec 10} (hf : f ≠ 0#10) :
    msbIndex f ≤ 9 ∧ f.getLsbD (msbIndex f) = true ∧ ∀ q, msbIndex f < q → f.getLsbD q = false := by
  obtain ⟨b, hb, hset⟩ : ∃ b, b < 10 ∧ f.getLsbD b = true := by
    by_contra hnone
    push Not at hnone
    exact hf (BitVec.eq_of_getLsbD_eq fun b hb => by simpa using hnone b hb)
  obtain ⟨hlt, hmsb, habove⟩ := msbBelow_spec f hb hset
  refine ⟨Nat.le_of_lt_succ hlt, hmsb, fun q hq => ?_⟩
  rcases Nat.lt_or_ge q 10 with hq10 | hq10
  · exact habove q hq hq10
  · exact BitVec.getLsbD_of_ge f q hq10

/-- The most significant 1 at index `p` puts the fraction from `2^p` up to `2^(p+1)`. -/
theorem msbIndex_bounds {f : BitVec 10} (hf : f ≠ 0#10) :
    2 ^ msbIndex f ≤ f.toNat ∧ f.toNat < 2 ^ (msbIndex f + 1) := by
  obtain ⟨_, hmsb, habove⟩ := msbIndex_spec hf
  exact ⟨Nat.ge_two_pow_of_testBit hmsb, Nat.lt_pow_two_of_testBit _ fun q hq => habove q hq⟩

/-- Normalising (R135): the fraction shifted until its most significant 1 is bit 23 is that implicit 1 and the 23 bits
that the result keeps. -/
theorem normalised_frac {f : BitVec 10} (hf : f ≠ 0#10) :
    (BitVec.ofNat 23 (f.toNat * 2 ^ (23 - msbIndex f))).toNat + 2 ^ 23 = f.toNat * 2 ^ (23 - msbIndex f) := by
  obtain ⟨hlow, hhigh⟩ := msbIndex_bounds hf
  have hp := (msbIndex_spec hf).1
  have hpow : 2 ^ msbIndex f * 2 ^ (23 - msbIndex f) = 2 ^ 23 := by
    rw [← Nat.pow_add, show msbIndex f + (23 - msbIndex f) = 23 by omega]
  have hge : 2 ^ 23 ≤ f.toNat * 2 ^ (23 - msbIndex f) := hpow ▸ Nat.mul_le_mul_right _ hlow
  have hlt : f.toNat * 2 ^ (23 - msbIndex f) < 2 * 2 ^ 23 := by
    rw [← hpow, ← Nat.mul_assoc, ← Nat.pow_succ']
    exact Nat.mul_lt_mul_of_pos_right hhigh (by positivity)
  rw [BitVec.toNat_ofNat]
  omega

/-! ### The sign of every result -/

/-- Forcing the quiet bit: bit 9 of the fraction is set, the payload below it stays (R137, R138). -/
theorem quieted_frac (h : Half) : halfFrac h ||| 0x200#10 = 1#1 ++ h.extractLsb' 0 9 := by
  apply BitVec.eq_of_getLsbD_eq
  intro b hb
  rw [BitVec.getLsbD_or, BitVec.getLsbD_append, halfFrac, BitVec.getLsbD_extractLsb', BitVec.getLsbD_extractLsb']
  interval_cases b <;> simp

/-- The result of a NaN is a NaN of its sign, whatever `cvt_nan` lists (D14, U11). -/
theorem cvtNaN_isNaN (cfg : List (Half × Single)) (h : Half) :
    isSingleNaN (cvtNaN cfg h) = true ∧ singleSign (cvtNaN cfg h) = halfSign h := by
  rcases cvtNaN_cases cfg h with hdefault | hlisted
  · have hquiet : (halfFrac h ||| 0x200#10) ++ 0#13 ≠ 0#23 := fun hzero => by
      have hbit := congrArg (BitVec.getLsbD · 22) hzero
      simp only [BitVec.getLsbD_append, BitVec.getLsbD_or] at hbit
      simp at hbit
    rw [hdefault, defaultNaN]
    simp [isSingleNaN, hquiet]
  · exact hlisted

/-- The sign is copied (R139, D14). -/
theorem singleSign_cvtH2s (cfg : List (Half × Single)) (h : Half) : singleSign (cvtH2s cfg h).1 = halfSign h := by
  rcases half_class_cases h with ⟨he, hf⟩ | ⟨he, hf⟩ | ⟨h1, h30⟩ | ⟨he, hf⟩ | ⟨he, hf⟩
  · simp [cvtH2s_zero he hf]
  · simp [cvtH2s_denormal he hf]
  · simp [cvtH2s_normal h1 h30]
  · simp [cvtH2s_infinity he hf]
  · rw [cvtH2s_nan he hf]
    exact (cvtNaN_isNaN cfg h).2

/-! ### The exponent of every result -/

section
variable (cfg : List (Half × Single)) {h : Half}

theorem singleExp_zero (he : halfExp h = 0#5) (hf : halfFrac h = 0#10) : singleExp (cvtH2s cfg h).1 = 0#8 := by
  rw [cvtH2s_zero he hf, singleExp_packSingle]

theorem singleExp_denormal (he : halfExp h = 0#5) (hf : halfFrac h ≠ 0#10) :
    (singleExp (cvtH2s cfg h).1).toNat = msbIndex (halfFrac h) + 103 := by
  have hp := (msbIndex_spec hf).1
  rw [cvtH2s_denormal he hf, singleExp_packSingle, BitVec.toNat_ofNat, Nat.mod_eq_of_lt (by omega)]

theorem singleExp_normal (h1 : 1 ≤ (halfExp h).toNat) (h30 : (halfExp h).toNat ≤ 30) :
    (singleExp (cvtH2s cfg h).1).toNat = (halfExp h).toNat + 112 := by
  rw [cvtH2s_normal h1 h30, singleExp_packSingle, BitVec.toNat_ofNat, Nat.mod_eq_of_lt (by omega)]

theorem singleExp_infinity_or_nan (he : halfExp h = 31#5) : singleExp (cvtH2s cfg h).1 = 255#8 := by
  by_cases hf : halfFrac h = 0#10
  · rw [cvtH2s_infinity he hf, singleExp_packSingle]
  · have hnan := (cvtNaN_isNaN cfg h).1
    simp only [isSingleNaN, Bool.and_eq_true, beq_iff_eq] at hnan
    rw [cvtH2s_nan he hf, hnan.1]

end

/-- The exponent of the input can be read off the exponent of its result: re-biasing back, a denormal's or a zero's
exponent is cut off at 0 and 255 stands for 31. -/
theorem halfExp_eq_of_result (cfg : List (Half × Single)) (h : Half) :
    (halfExp h).toNat = min ((singleExp (cvtH2s cfg h).1).toNat - 112) 31 := by
  rcases half_class_cases h with ⟨he, hf⟩ | ⟨he, hf⟩ | ⟨h1, h30⟩ | ⟨he, -⟩ | ⟨he, -⟩
  · rw [singleExp_zero cfg he hf, he]
    rfl
  · have hp := (msbIndex_spec hf).1
    rw [singleExp_denormal cfg he hf, he, BitVec.toNat_ofNat]
    omega
  · rw [singleExp_normal cfg h1 h30]
    omega
  · rw [singleExp_infinity_or_nan cfg he, he]
    rfl
  · rw [singleExp_infinity_or_nan cfg he, he]
    rfl

/-! ### The classes, one statement each -/

/-- Settles O11. -/
theorem zeroAndInfinityConvert : Obligations.ZeroAndInfinityConvert := by
  intro cfg h hf
  refine ⟨fun he => ?_, fun he => cvtH2s_infinity he hf⟩
  have hzero : packSingle (halfSign h) 0#8 0#23 = halfSign h ++ 0#31 := by
    rw [packSingle, BitVec.append_assoc]
    rfl
  rw [cvtH2s_zero he hf, hzero]

/-- Settles O12. -/
theorem normalRebiased : Obligations.NormalRebiased := by
  refine ⟨fun cfg h h1 h30 => ⟨?_, ?_, ?_, ?_⟩, by decide⟩
  · rw [cvtH2s_normal h1 h30, packSingle, BitVec.append_assoc (x₃ := 0#13)]
    rfl
  · rw [singleExp_normal cfg h1 h30]
    omega
  · rw [singleExp_normal cfg h1 h30]
    omega
  · rw [cvtH2s_normal h1 h30]

/-- Settles O13: `p` is `msbIndex`. -/
theorem denormalNormalised : Obligations.DenormalNormalised := by
  intro cfg h he hf
  obtain ⟨hp, hmsb, habove⟩ := msbIndex_spec hf
  have hfrac : BitVec.ofNat 23 ((halfFrac h).toNat * 2 ^ (23 - msbIndex (halfFrac h))) =
      BitVec.ofNat 23 ((halfFrac h).toNat <<< (23 - msbIndex (halfFrac h)) % 2 ^ 23) := by
    apply BitVec.eq_of_toNat_eq
    rw [BitVec.toNat_ofNat, BitVec.toNat_ofNat, Nat.mod_mod, Nat.shiftLeft_eq]
  refine ⟨msbIndex (halfFrac h), hp, hmsb, habove, ?_, ?_, ?_, ?_⟩
  · rw [cvtH2s_denormal he hf, hfrac]
    rfl
  · rw [singleExp_denormal cfg he hf]
    omega
  · rw [singleExp_denormal cfg he hf]
    omega
  · rw [cvtH2s_denormal he hf]

/-- The default result of a NaN, field by field (R137, R138). -/
theorem defaultNaN_eq (h : Half) :
    defaultNaN h = halfSign h ++ 255#8 ++ 1#1 ++ h.extractLsb' 0 9 ++ 0#13 := by
  rw [defaultNaN, packSingle, quieted_frac, BitVec.append_assoc (x₁ := 1#1),
    BitVec.append_assoc (x₂ := h.extractLsb' 0 9), BitVec.append_assoc (x₂ := 1#1)]
  rfl

/-- Settles O14: the default is what an empty list gives. -/
theorem naNQuieted : Obligations.NaNQuieted := by
  refine ⟨fun h hnan => ?_, fun cfg h hnan => ?_, fun cfg h => ?_, fun cfg h hnan => ?_⟩
  · obtain ⟨he, hf⟩ := isHalfNaN_iff.1 hnan
    have hresult : (cvtH2s [] h).1 = defaultNaN h := by
      rw [cvtH2s_nan he hf]
      rfl
    rw [hresult, defaultNaN_eq]
    refine ⟨rfl, ?_⟩
    simp only [BitVec.getLsbD_append]
    simp
  · obtain ⟨he, hf⟩ := isHalfNaN_iff.1 hnan
    rw [cvtH2s_nan he hf]
    exact cvtNaN_isNaN cfg h
  · rw [cvtH2s_ie, isHalfSNaN, Bool.and_eq_true, isHalfNaN_iff, Bool.not_eq_true', and_assoc]
  · obtain ⟨he, hf⟩ := isHalfNaN_iff.1 hnan
    rw [cvtH2s_nan he hf]

/-- Settles O15: bit 31 and bit 15 are the signs. -/
theorem signCopied : Obligations.SignCopied := by
  intro cfg h
  have hsign := congrArg (BitVec.getLsbD · 0) (singleSign_cvtH2s cfg h)
  simpa [singleSign, halfSign, BitVec.getLsbD_extractLsb'] using hsign

/-- Settles O18: of the five classes only zero has a result with exponent 0. -/
theorem noDenormalResult : Obligations.NoDenormalResult := by
  intro cfg h hexp
  rcases half_class_cases h with ⟨he, hf⟩ | ⟨he, hf⟩ | ⟨h1, h30⟩ | ⟨he, -⟩ | ⟨he, -⟩
  · rw [cvtH2s_zero he hf, singleFrac_packSingle]
  · have hpos := singleExp_denormal cfg he hf
    simp [hexp] at hpos
  · have hpos := singleExp_normal cfg h1 h30
    simp [hexp] at hpos
  · exact absurd (hexp.symm.trans (singleExp_infinity_or_nan cfg he)) (by decide)
  · exact absurd (hexp.symm.trans (singleExp_infinity_or_nan cfg he)) (by decide)

/-! ### The value of a finite result (R140) -/

/-- The value of a finite FP16 pattern without its sign (R131). -/
def halfMagnitude (h : Half) : ℚ :=
  if halfExp h = 0#5 then ((halfFrac h).toNat : ℚ) * 2 ^ (-24 : ℤ)
  else (1 + ((halfFrac h).toNat : ℚ) / 1024) * 2 ^ (((halfExp h).toNat : ℤ) - 15)

/-- The value of a finite FP32 pattern without its sign (R132). -/
def singleMagnitude (r : Single) : ℚ :=
  if singleExp r = 0#8 then ((singleFrac r).toNat : ℚ) * 2 ^ (-149 : ℤ)
  else (1 + ((singleFrac r).toNat : ℚ) / 8388608) * 2 ^ (((singleExp r).toNat : ℤ) - 127)

theorem halfValue_eq (h : Half) : halfValue h = (-1) ^ (halfSign h).toNat * halfMagnitude h := rfl

theorem singleValue_eq (r : Single) : singleValue r = (-1) ^ (singleSign r).toNat * singleMagnitude r := rfl

/-- A denormal's result denotes the denormal: `2^23 + (f * 2^(23-p) mod 2^23) = f * 2^(23-p)`. -/
theorem singleMagnitude_denormal (cfg : List (Half × Single)) {h : Half} (he : halfExp h = 0#5)
    (hf : halfFrac h ≠ 0#10) : singleMagnitude (cvtH2s cfg h).1 = halfMagnitude h := by
  have hexp := singleExp_denormal cfg he hf
  have hne : singleExp (cvtH2s cfg h).1 ≠ 0#8 := fun hzero => by simp [hzero] at hexp
  have hp := (msbIndex_spec hf).1
  have hfrac : ((singleFrac (cvtH2s cfg h).1).toNat : ℚ) + 2 ^ 23 =
      (halfFrac h).toNat * 2 ^ (23 - msbIndex (halfFrac h)) := by
    rw [cvtH2s_denormal he hf, singleFrac_packSingle]
    exact_mod_cast normalised_frac hf
  have hscale : (2 : ℚ) ^ (23 - msbIndex (halfFrac h)) * 2 ^ (((msbIndex (halfFrac h) + 103 : ℕ) : ℤ) - 127) =
      2 ^ (-1 : ℤ) := by
    rw [← zpow_natCast, ← zpow_add₀ two_ne_zero]
    congr 1
    omega
  rw [singleMagnitude, if_neg hne, halfMagnitude, if_pos he, hexp]
  calc (1 + ((singleFrac (cvtH2s cfg h).1).toNat : ℚ) / 8388608) *
        2 ^ (((msbIndex (halfFrac h) + 103 : ℕ) : ℤ) - 127)
      = ((singleFrac (cvtH2s cfg h).1).toNat + 2 ^ 23) / 2 ^ 23 *
          2 ^ (((msbIndex (halfFrac h) + 103 : ℕ) : ℤ) - 127) := by ring
    _ = (halfFrac h).toNat / 2 ^ 23 *
          (2 ^ (23 - msbIndex (halfFrac h)) * 2 ^ (((msbIndex (halfFrac h) + 103 : ℕ) : ℤ) - 127)) := by
        rw [hfrac]
        ring
    _ = (halfFrac h).toNat * 2 ^ (-24 : ℤ) := by
        rw [hscale]
        norm_num
        ring

/-- A normal's result denotes the normal: the fraction has 13 zeros more and the bias is 112 larger. -/
theorem singleMagnitude_normal (cfg : List (Half × Single)) {h : Half} (h1 : 1 ≤ (halfExp h).toNat)
    (h30 : (halfExp h).toNat ≤ 30) : singleMagnitude (cvtH2s cfg h).1 = halfMagnitude h := by
  have hexp := singleExp_normal cfg h1 h30
  have hne : singleExp (cvtH2s cfg h).1 ≠ 0#8 := fun hzero => by simp [hzero] at hexp
  have hne' : halfExp h ≠ 0#5 := by bv_omega
  have hfrac : (singleFrac (cvtH2s cfg h).1).toNat = (halfFrac h).toNat * 8192 := by
    rw [cvtH2s_normal h1 h30, singleFrac_packSingle, BitVec.toNat_append, Nat.shiftLeft_eq]
    simp
  have hbias : (((halfExp h).toNat + 112 : ℕ) : ℤ) - 127 = ((halfExp h).toNat : ℤ) - 15 := by omega
  rw [singleMagnitude, if_neg hne, halfMagnitude, if_neg hne', hexp, hfrac, hbias]
  push_cast
  ring

/-- The result of a finite value denotes the same number (R140). -/
theorem singleValue_cvtH2s (cfg : List (Half × Single)) {h : Half} (hfin : halfExp h ≠ 31#5) :
    singleValue (cvtH2s cfg h).1 = halfValue h := by
  rw [singleValue_eq, halfValue_eq, singleSign_cvtH2s]
  congr 1
  rcases half_class_cases h with ⟨he, hf⟩ | ⟨he, hf⟩ | ⟨h1, h30⟩ | ⟨he, -⟩ | ⟨he, -⟩
  · simp [singleMagnitude, halfMagnitude, cvtH2s_zero he hf, he, hf]
  · exact singleMagnitude_denormal cfg he hf
  · exact singleMagnitude_normal cfg h1 h30
  · exact absurd he hfin
  · exact absurd he hfin

/-- Settles O16. -/
theorem conversionIsExact : Obligations.ConversionIsExact := by
  intro cfg h hfin
  refine ⟨fun hexp => hfin (BitVec.eq_of_toNat_eq ?_), singleValue_cvtH2s cfg hfin⟩
  rw [halfExp_eq_of_result cfg h, hexp]
  rfl

/-! ### Injectivity (R140) -/

/-- Among FP16 patterns of one exponent the magnitude determines the fraction. -/
theorem halfFrac_eq_of_magnitude {a b : Half} (he : halfExp a = halfExp b) (hm : halfMagnitude a = halfMagnitude b) :
    halfFrac a = halfFrac b := by
  apply BitVec.eq_of_toNat_eq
  rw [halfMagnitude, halfMagnitude, he] at hm
  split at hm
  · exact_mod_cast mul_right_cancel₀ (by positivity) hm
  · have hsum := mul_right_cancel₀ (zpow_ne_zero _ two_ne_zero) hm
    have hfrac : ((halfFrac a).toNat : ℚ) = (halfFrac b).toNat := by linarith
    exact_mod_cast hfrac

/-- Settles O17: the result gives back the sign, the exponent, and for a finite input the value. -/
theorem conversionInjectiveOffNaN : Obligations.ConversionInjectiveOffNaN := by
  intro cfg a b ha hb heq
  have hsign : halfSign a = halfSign b := by rw [← singleSign_cvtH2s cfg a, heq, singleSign_cvtH2s]
  have hexp : halfExp a = halfExp b :=
    BitVec.eq_of_toNat_eq (by rw [halfExp_eq_of_result cfg a, heq, ← halfExp_eq_of_result])
  refine half_ext hsign hexp ?_
  by_cases hinf : halfExp a = 31#5
  · have hza : halfFrac a = 0#10 := by simpa [isHalfNaN, hinf] using ha
    have hzb : halfFrac b = 0#10 := by simpa [isHalfNaN, ← hexp, hinf] using hb
    rw [hza, hzb]
  · have hvalue : halfValue a = halfValue b := by
      rw [← singleValue_cvtH2s cfg hinf, heq, singleValue_cvtH2s cfg (hexp ▸ hinf)]
    rw [halfValue_eq, halfValue_eq, hsign] at hvalue
    exact halfFrac_eq_of_magnitude hexp (mul_left_cancel₀ (pow_ne_zero _ (by norm_num)) hvalue)

end Sys2Proof.Machine
end

section
/-! PROOFS. What an instruction does with the flags of its lanes: the masked response, #XM, sae, no active lane, and the
instructions that read the same operands. -/

namespace Sys2Proof.Machine

open Sys2Proof

/-! ### The masked response -/

/-- Settles O24: with both masks set nothing traps. -/
theorem maskedResponseCompletes : Obligations.MaskedResponseCompletes := by
  intro i s hready hread him hdm
  refine runs i s hready hread fun ⟨_, htrap⟩ => ?_
  rcases htrap with ⟨_, h⟩ | ⟨_, h⟩
  · simp [him] at h
  · simp [hdm] at h

/-- An instruction that completes with nothing detected leaves MXCSR as it was (R143). -/
theorem Completed.mxcsr_of_nothing_detected {i : Instr} {s t : State} (h : Completed i s t) (hie : ¬ Invalid i s)
    (hde : ¬ Denormal i s) : t.mxcsr = s.mxcsr := by
  cases hsae : i.suppresses with
  | true => exact h.suppressed hsae
  | false =>
    obtain ⟨h0, h1, hrest⟩ := h.flags hsae
    apply BitVec.eq_of_getLsbD_eq
    intro b _
    match b with
    | 0 => exact Bool.eq_iff_iff.2 (by simpa [hie] using h0)
    | 1 => exact Bool.eq_iff_iff.2 (by simpa [hde] using h1)
    | b + 2 => exact hrest (b + 2) (by omega)

/-- Settles O25: what is detected is detected in an active lane. -/
theorem noActiveLaneSignalsNothing : Obligations.NoActiveLaneSignalsNothing := by
  intro i s hready hread hinactive
  have hie : ¬ Invalid i s := fun ⟨j, hj, hact, _⟩ => by simp [hinactive j hj] at hact
  have hde : ¬ Denormal i s := fun ⟨_, j, hj, hact, _⟩ => by simp [hinactive j hj] at hact
  have htrap : ¬ Trapping i s := fun ⟨_, h⟩ => h.elim (fun h => hie h.1) fun h => hde h.1
  obtain ⟨t, hexec, hdone⟩ := runs i s hready hread htrap
  refine ⟨t, hexec, hdone.mxcsr_of_nothing_detected hie hde, fun j hj => ?_, hdone.above⟩
  rw [hdone.lanes j hj, hinactive j hj, if_neg Bool.false_ne_true]

/-! ### The unmasked response -/

/-- An instruction that nothing stops and that traps answers the unmasked response, with the signalled flags set
(R146, R147). -/
theorem exec_of_trapping {i : Instr} {s : State} (hstop : accessStop i.form i.dest i.source s = none)
    (hadm : SourceAdmitted i s) (htrap : Trapping i s) :
    exec i s = raise (simdException s) (s.withMxcsr (setMxcsrFlags s.mxcsr (signalledFlags i s))) := by
  obtain ⟨elem, hsrc⟩ := sourceElems_ok_iff.2 hadm
  have hflags : laneFlags s.cvtNan i.form.psx elem (i.active s) i.form.kl = signalledFlags i s := by
    rw [laneFlags_of_source hsrc, signalledFlags, htrap.1, if_neg Bool.false_ne_true]
  have hunmasked := unmasked_signalledFlags_iff.2 htrap
  rw [exec_eq_convertForm]
  simp only [convertForm, hstop, hsrc, convertLanes, commit, hflags, htrap.1, hunmasked, Bool.not_false, Bool.and_self,
    if_true]

/-- Settles O49. -/
theorem unmaskedExceptionRaisesXm : Obligations.UnmaskedExceptionRaisesXm := by
  intro i s hready hread htrap
  have hadm : SourceAdmitted i s := sourceElems_ok_iff.1 (sourceElems_of_readable hread)
  exact ⟨_, flagsSet_signalledFlags htrap.1, exec_of_trapping (accessStop_of_ready hready) hadm htrap⟩

/-! ### sae -/

/-- Settles O23: the source is a register, and what is suppressed does not trap. -/
theorem saeFormsRun : Obligations.SaeFormsRun := by
  intro d n k s i hi hready
  obtain ⟨hsae, hsrc⟩ : i.suppresses = true ∧ i.source = .reg n := by rcases hi with rfl | rfl <;> exact ⟨rfl, rfl⟩
  have hread : Readable i s := by simp [Readable, hsrc]
  have htrap : ¬ Trapping i s := fun ⟨hplain, _⟩ => by simp [hsae] at hplain
  obtain ⟨t, hexec, hdone⟩ := runs i s hready hread htrap
  exact ⟨t, hexec, hdone, hdone.suppressed hsae⟩

/-! ### Instructions that read the same operands -/

/-- Two instructions of the same length and lane count, both VEX or both EVEX, that name the same destination,
writemask and source. -/
structure SameOperands (i i' : Instr) : Prop where
  vex : i'.form.vex = i.form.vex := by rfl
  kl : i'.form.kl = i.form.kl := by rfl
  dest : i'.dest = i.dest := by rfl
  mask : i'.mask = i.mask := by rfl
  source : i'.source = i.source := by rfl
  broadcasts : i'.broadcasts = i.broadcasts := by rfl
  len : i'.len = i.len := by rfl

section
variable {i i' : Instr}

theorem SameOperands.readBytes_eq (h : SameOperands i i') : i'.readBytes = i.readBytes := by
  simp only [Instr.readBytes, h.broadcasts, h.kl]

theorem SameOperands.address_eq (h : SameOperands i i') (s : State) (m : MemOp) : i'.address s m = i.address s m := by
  simp only [Instr.address, Instr.scaleN, h.vex, h.readBytes_eq, h.len]

theorem SameOperands.active_eq (h : SameOperands i i') (s : State) (j : Nat) : i'.active s j = i.active s j := by
  simp only [Instr.active, h.mask]

theorem SameOperands.element_eq (h : SameOperands i i') (s : State) (j : Nat) : i'.element s j = i.element s j := by
  simp only [Instr.element, h.source, h.broadcasts, h.address_eq]

theorem SameOperands.zeroes_eq (h : SameOperands i i') : i'.zeroes = i.zeroes := by
  simp only [Instr.zeroes, h.mask]

/-- The read is admitted for the one where it is for the other. -/
theorem SameOperands.admitted (h : SameOperands i i') {s : State} (hadm : SourceAdmitted i s) :
    SourceAdmitted i' s := by
  intro m hm
  rw [h.vex, h.address_eq, h.readBytes_eq]
  exact hadm m (h.source ▸ hm)

/-- The same lanes are Invalid. -/
theorem SameOperands.invalid_iff (h : SameOperands i i') {s : State} : Invalid i' s ↔ Invalid i s := by
  simp only [Invalid, h.kl, h.active_eq, h.element_eq]

/-- Both leave the same state but for MXCSR, where each sets what it signals. -/
theorem SameOperands.retired_eq (h : SameOperands i i') (s : State) :
    retired i' s = { retired i s with mxcsr := setMxcsrFlags s.mxcsr (signalledFlags i' s) } := by
  have hdest : destResult i' s = destResult i s := by
    simp only [destResult, h.dest, h.kl, h.zeroes_eq, funext (h.active_eq s), h.element_eq]
  rw [retired, hdest, h.dest, h.len]
  rfl

/-- Where the one completes, no check stops the other and it signals nothing that is unmasked, the other completes with
the same state but for MXCSR. -/
theorem SameOperands.exec_next (h : SameOperands i i') {s t : State} (hexec : exec i s = .next t)
    (hstop : accessStop i'.form i'.dest i'.source s = none) (htrap : ¬ Trapping i' s) :
    exec i' s = .next { t with mxcsr := setMxcsrFlags s.mxcsr (signalledFlags i' s) } := by
  obtain ⟨_, hadm, _, rfl⟩ := exec_eq_next_iff.1 hexec
  have hmasked : unmasked s.mxcsr (signalledFlags i' s) = false :=
    Bool.eq_false_iff.2 fun hu => htrap (unmasked_signalledFlags_iff.1 hu)
  exact exec_eq_next_iff.2 ⟨hstop, h.admitted hadm, hmasked, (h.retired_eq s).symm⟩

/-- An sae form completes wherever the plain form of the same operands does, and leaves MXCSR as it was (R148). -/
theorem SameOperands.exec_sae (h : SameOperands i i') (hform : i'.form = i.form) (hsae : i'.suppresses = true)
    {s t : State} (hexec : exec i s = .next t) : exec i' s = .next { t with mxcsr := s.mxcsr } := by
  have hstop : accessStop i'.form i'.dest i'.source s = none := by
    rw [hform, h.dest, h.source]
    exact (exec_eq_next_iff.1 hexec).1
  have htrap : ¬ Trapping i' s := fun ⟨hplain, _⟩ => by simp [hsae] at hplain
  rw [h.exec_next hexec hstop htrap, signalledFlags_of_suppresses s hsae, setMxcsrFlags_empty]

/-- VCVTPH2PS completes wherever VCVTPH2PSX of the same operands does, with the same state but for DE: it detects the
same signalling NaNs and no denormal (R142, R196). -/
theorem SameOperands.exec_ps (h : SameOperands i i') (hps : i'.form.psx = false) (hplain : i.suppresses = false)
    (hplain' : i'.suppresses = false) {s t : State} (hready : Ready i' s) (hexec : exec i s = .next t) :
    ∃ m, exec i' s = .next { t with mxcsr := m } ∧ m.getLsbD 1 = s.mxcsr.getLsbD 1 ∧
      ∀ b, b ≠ 1 → m.getLsbD b = t.mxcsr.getLsbD b := by
  obtain ⟨_, _, hmasked, rfl⟩ := exec_eq_next_iff.1 hexec
  have hnoDenormal : ¬ Denormal i' s := fun ⟨hpsx, _⟩ => by simp [hps] at hpsx
  have htrap : ¬ Trapping i' s := by
    rintro ⟨_, ⟨hie, him⟩ | ⟨hde, _⟩⟩
    · have htrap : Trapping i s := ⟨hplain, .inl ⟨h.invalid_iff.1 hie, him⟩⟩
      simp [unmasked_signalledFlags_iff.2 htrap] at hmasked
    · exact hnoDenormal hde
  have hie : (signalledFlags i' s).ie = (signalledFlags i s).ie := by
    rw [Bool.eq_iff_iff, signalledFlags_ie, signalledFlags_ie, h.invalid_iff, hplain, hplain']
  have hde : (signalledFlags i' s).de = false :=
    Bool.eq_false_iff.2 fun hset => hnoDenormal (signalledFlags_de.1 hset).2
  refine ⟨_, h.exec_next hexec (accessStop_of_ready hready) htrap, ?_, fun b hb => ?_⟩
  · rw [setMxcsrFlags_getLsbD_one, hde, Bool.or_false]
  · simp [retired, setMxcsrFlags_getLsbD, hie, hb]

end

/-- Settles O27. -/
theorem psxMatchesPs : Obligations.PsxMatchesPs := by
  intro d k src s t p hp hready hexec
  simp only [List.mem_cons, List.not_mem_nil, or_false] at hp
  rcases hp with rfl | rfl | rfl
  · exact SameOperands.exec_ps (i := .psx128 d k src) (i' := .evexPs128 d k src) {} rfl rfl rfl hready hexec
  · exact SameOperands.exec_ps (i := .psx256 d k src) (i' := .evexPs256 d k src) {} rfl rfl rfl hready hexec
  · exact SameOperands.exec_ps (i := .psx512 d k src) (i' := .evexPs512 d k src) {} rfl rfl rfl hready hexec

/-- Settles O28. -/
theorem saeMatchesPlain : Obligations.SaeMatchesPlain := fun d n k _ _ =>
  ⟨SameOperands.exec_sae (i := .evexPs512 d k (.reg n)) (i' := .evexPs512Sae d k n) {} rfl rfl,
    SameOperands.exec_sae (i := .psx512 d k (.reg n)) (i' := .psx512Sae d k n) {} rfl rfl⟩

end Sys2Proof.Machine
end

section
/-! PROOFS. The statement of 42_vcvtph2ps_evex.md that compares the EVEX forms of VCVTPH2PS with the VEX forms. -/

namespace Sys2Proof.Machine

open Sys2Proof

/-- Both instructions name the destination `d` and convert as many lanes of register `n` to it, all of them active, by
the same conversion and with the same exception treatment. Prefix, length and zeroing may differ. -/
structure SameFullConversion (d n : VReg) (i i' : Instr) : Prop where
  dest : i.dest = d := by rfl
  dest' : i'.dest = d := by rfl
  source : i.source = .reg n := by rfl
  source' : i'.source = .reg n := by rfl
  kl : i'.form.kl = i.form.kl := by rfl
  psx : i'.form.psx = i.form.psx := by rfl
  suppresses : i'.suppresses = i.suppresses := by rfl
  active : ∀ s j, i.active s j = true := by exact fun _ _ => rfl
  active' : ∀ s j, i'.active s j = true := by exact fun _ _ => rfl

/-- An active lane takes its result, zeroing or not (R172). -/
theorem newLane_of_active (old : VecWord) (res : Nat → Single) {active : Nat → Bool} (zeroing : Bool) {j : Nat}
    (h : active j = true) : newLane old res active zeroing j = res j :=
  if_pos h

section
variable {d n : VReg} {i i' : Instr}

theorem SameFullConversion.element_eq (h : SameFullConversion d n i i') (s : State) : i'.element s = i.element s :=
  funext fun j => (element_of_reg h.source' s j).trans (element_of_reg h.source s j).symm

theorem SameFullConversion.active_eq (h : SameFullConversion d n i i') (s : State) : i'.active s = i.active s :=
  funext fun j => (h.active' s j).trans (h.active s j).symm

/-- Both signal the same flags. -/
theorem SameFullConversion.signalledFlags_eq (h : SameFullConversion d n i i') (s : State) :
    signalledFlags i' s = signalledFlags i s := by
  simp only [signalledFlags, h.suppresses, h.psx, h.kl, h.element_eq, h.active_eq]

/-- Both write the same result: no lane is left to zeroing or merging. -/
theorem SameFullConversion.destResult_eq (h : SameFullConversion d n i i') (s : State) :
    destResult i' s = destResult i s := by
  rw [destResult, destResult, h.kl, h.element_eq]
  exact packLanes_congr _ fun j _ => by
    rw [newLane_of_active _ _ _ (h.active s j), newLane_of_active _ _ _ (h.active' s j)]

/-- Both leave the same state but for `pc`, which each advances by its own length. -/
theorem SameFullConversion.retired_eq (h : SameFullConversion d n i i') (s : State) :
    retired i' s = { retired i s with pc := s.pc + BitVec.ofNat 64 i'.len } := by
  rw [retired, retired, h.destResult_eq, h.signalledFlags_eq, h.dest, h.dest']
  rfl

/-- Where the one completes and the other is ready, the other completes with the same state but for `pc`. -/
theorem SameFullConversion.exec_next (h : SameFullConversion d n i i') {s t : State} (hready : Ready i' s)
    (hexec : exec i s = .next t) : exec i' s = .next { t with pc := s.pc + BitVec.ofNat 64 i'.len } := by
  obtain ⟨_, _, hmasked, rfl⟩ := exec_eq_next_iff.1 hexec
  have hadm : SourceAdmitted i' s := fun m hm => by simp [h.source'] at hm
  exact exec_eq_next_iff.2
    ⟨accessStop_of_ready hready, hadm, h.signalledFlags_eq s ▸ hmasked, (h.retired_eq s).symm⟩

end

/-- Settles O26: with `aaa = 000b` every lane of the EVEX form is active, as every lane of a VEX form is (R178). -/
theorem unmaskedEvexEqualsVex : Obligations.UnmaskedEvexEqualsVex := fun d n z _ _ =>
  ⟨SameFullConversion.exec_next (i := .evexPs128 d ⟨0, z⟩ (.reg n)) (i' := .vexPs128 d (.reg n)) (d := d) (n := n) {},
    SameFullConversion.exec_next (i := .evexPs256 d ⟨0, z⟩ (.reg n)) (i' := .vexPs256 d (.reg n)) (d := d) (n := n) {}⟩

end Sys2Proof.Machine
end

section
/-! PROOFS. The remaining statements of 60_exceptions.md: where #AC cannot be raised, what every form does after reset,
and #NM. -/

namespace Sys2Proof.Machine

open Sys2Proof

/-! ### #AC -/

/-- The alignment check fails for no VEX form, and for no form with alignment checking off (R206, R211). -/
theorem alignmentFault_of_vex_or_alignment_off {vex : Bool} {a : Word} {n : Nat} {s : State}
    (h : vex = true ∨ s.alignmentChecking = false) : alignmentFault vex a n s = false := by
  rcases h with rfl | hoff
  · rfl
  · exact alignmentFault_of_alignment_off hoff

/-- A check before the form raises no #AC (R204, R205). -/
theorem accessStop_ne_ac {f : Form} {d : VReg} {src : RegMem} {s : State} :
    accessStop f d src s ≠ some (.raises .ac) := by
  intro h
  rcases accessStop_cases h with hud | hnm | ⟨mode, hmode, _⟩
  · cases hud
  · cases hnm
  · cases hmode

/-- The load raises #AC only where the alignment check fails (R59, R215). -/
theorem alignmentFault_of_memStop_ac {vex : Bool} {a : Word} {n : Nat} {sb : Bool} {s : State}
    (h : memStop vex a n sb s = some (.raises .ac)) : alignmentFault vex a n s = true := by
  rcases memStop_cases h with ⟨_, hgp⟩ | ⟨p, _, hpf⟩ | ⟨hal, _⟩ | ⟨j, _, _, hdev⟩
  · cases sb <;> cases hgp
  · cases hpf
  · exact hal
  · cases hdev

/-- A stop that faults raises the exception of the fault. -/
theorem Stop.eq_raises_of_outcome_fault {s after : State} {stop : Stop} {x : Exception} {pc : Word}
    (h : stop.outcome s = .fault (.exception x pc after)) : stop = .raises x := by
  cases stop with
  | raises y =>
    rw [Stop.outcome_raises] at h
    injection h with h
    injection h with hx
    rw [hx]
  | refuses r => simp [Stop.outcome] at h

/-- Only the load raises #AC, and only where the alignment check of the memory operand fails (R207, R215). -/
theorem alignmentFault_of_exec_ac {i : Instr} {s after : State} {pc : Word}
    (h : exec i s = .fault (.exception .ac pc after)) :
    ∃ m, i.source = .mem m ∧ alignmentFault i.form.vex (i.address s m) i.readBytes s = true := by
  rcases exec_cases i s with ⟨t, he⟩ | ⟨stop, hstop, he⟩ | ⟨m, stop, _, hsrc, hstop, he⟩ | ⟨f, he⟩
  · simp [he] at h
  · obtain rfl := Stop.eq_raises_of_outcome_fault (he ▸ h)
    exact absurd hstop accessStop_ne_ac
  · obtain rfl := Stop.eq_raises_of_outcome_fault (he ▸ h)
    exact ⟨m, hsrc, alignmentFault_of_memStop_ac hstop⟩
  · rw [he, raise_eq] at h
    injection h with h
    injection h with hx
    rcases simdException_cases s with hxm | hud
    · cases hx.symm.trans hxm
    · cases hx.symm.trans hud

/-- Settles O50: #AC needs an alignment check that fails. -/
theorem alignmentCheckNeverRaised : Obligations.AlignmentCheckNeverRaised := by
  intro i s after pc hnever h
  obtain ⟨m, _, hal⟩ := alignmentFault_of_exec_ac h
  exact absurd ((alignmentFault_of_vex_or_alignment_off hnever).symm.trans hal) Bool.false_ne_true

/-! ### Reset -/

/-- The processor comes out of reset in real-address mode (R241). -/
theorem mode_reset : State.reset.mode = .realAddress := rfl

/-- Settles O35: real-address mode is the first of the conditions of R204. -/
theorem resetRaisesUd : Obligations.ResetRaisesUd :=
  ⟨mode_reset, rfl, fun i => disabledFormRaisesUd i State.reset (.inl mode_reset)⟩

/-! ### #NM -/

/-- A form that is enabled, reported and within `MAXVL`, and whose registers exist, meets no #UD (R204, R120, R21,
R23). -/
theorem formUnavailable_eq_false {f : Form} {d : VReg} {src : RegMem} {s : State} (hosxsave : s.osxsave = true)
    (hxcr0 : s.xcr0Enables f.vex = true) (hfeatures : f.available s.features = true) (hvl : f.vl ≤ s.maxvl.bits)
    (hregisters : registersExist s.features d src = true) : formUnavailable f d src s = false := by
  simp [formUnavailable, hosxsave, hxcr0, hfeatures, hvl, hregisters]

/-- After the mode and the #UD conditions the check before a form asks CR0.TS (R205, R215). -/
theorem accessStop_of_ts {f : Form} {d : VReg} {src : RegMem} {s : State} (hmode : s.mode = .mode64)
    (havailable : formUnavailable f d src s = false) (hts : s.ts = true) :
    accessStop f d src s = some (.raises .nm) := by
  have hnone : modeStop s = none := by simp only [modeStop, hmode]
  simp [accessStop, hnone, havailable, hts]

/-- Settles O47. -/
theorem taskSwitchedRaisesNm : Obligations.TaskSwitchedRaisesNm := by
  intro i s hmode hosxsave hxcr0 hfeatures hvl hregisters hts
  exact exec_of_accessStop
    (accessStop_of_ts hmode (formUnavailable_eq_false hosxsave hxcr0 hfeatures hvl hregisters) hts)

end Sys2Proof.Machine
end
